-- ==== Sys2Proof/Word.lean ====
section
/-!
DEFINITION. Word.lean: the fixed-width values of the DRC (00_scope.md R8, R9). Bit 0 is the least significant bit.
-/

namespace Sys2Proof

/-- A byte of memory, of a payload or of a request (`u8`, R9). -/
abbrev Byte := BitVec 8

/-- A CSR, a BCR, a descriptor status or byte count (`u16`, R9). -/
abbrev Half := BitVec 16

/-- The data of a dword port access, or a physical address held in a register (`u32`, R9). -/
abbrev Word := BitVec 32

end Sys2Proof
end

