-- ==== Sys2Proof/Config.lean ====
section
/-!
DEFINITION. Config.lean: the implementation parameters of 00_scope.md R6 and the values no rule fixes.

The parameters the spec leaves OPEN, and those it gives a default "unless a claim quantifies over it", are the fields
of `Params`. A state carries one `Params` (its field `cfg`) that no step changes, so a statement over every state
quantifies over every parameter. What the spec calls a draw of an unspecified value is an opaque constant below:
nothing can evaluate it or prove a value of it.
-/

namespace Sys2Proof

/-- The parameters of R6. `dmaWindow` is the set `DMA_WINDOW` as a list of (first address, number of bytes). -/
structure Params where
  /-- `IO_BASE`, the base port address of the 32-byte window (a multiple of 32). -/
  ioBase : Nat
  /-- `APROM[0..15]`; bytes 0 to 5 are the burned-in station address (D37). -/
  aprom : Vector Byte 16
  /-- `RX_LOG2`, 0 to 9. -/
  rxLog2 : Nat
  /-- `TX_LOG2`, 0 to 9. -/
  txLog2 : Nat
  /-- `BUFFER_SIZE`, 1 to 4095. -/
  bufferSize : Nat
  /-- `DMA_WINDOW`, the physical byte addresses the device may read or write (D25). -/
  dmaWindow : List (Nat × Nat)
  /-- `TX_BABBLE_LIMIT`, the frame length above which a transmission sets BABL (D28). -/
  txBabbleLimit : Nat
  /-- `PROBE_VALUE`, the value the width probe writes to RAP (D33). -/
  probeValue : Half
  /-- `INIT_MODE`, the MODE word the controller writes into the initialization block (D40). -/
  initMode : Half
deriving DecidableEq, Repr

/-- The ranges R6 states for the parameters. -/
def Params.wf (p : Params) : Bool :=
  p.ioBase % 32 == 0 && decide (p.rxLog2 ≤ 9) && decide (p.txLog2 ≤ 9) &&
    decide (1 ≤ p.bufferSize) && decide (p.bufferSize ≤ 4095)

/-- The default configuration of 95_test_vectors.md section 2 (log entry 3). -/
def Params.default : Params where
  ioBase := 0
  aprom := #v[0x00, 0x11, 0x22, 0x33, 0x44, 0x55, 0, 0, 0, 0, 0, 0, 0, 0, 0, 0]
  rxLog2 := 2
  txLog2 := 2
  bufferSize := 1536
  dmaWindow := [(0x00100000, 0x30A0)]
  txBabbleLimit := 1518
  probeValue := 0x0058
  initMode := 0x0000

/-- `LADRF_MATCH`, the multicast hash acceptance (R6, R371, D24): OPEN, a function of the filter and the six bytes of
the destination address. No value of it is known to any proof. -/
opaque Config.ladrfMatch : BitVec 64 → List Byte → Bool

/-- The value the `n`-th read of the RESET port returns: a draw, "any value" (R169, R178, I11, D36). -/
opaque Config.resetReadValue : Nat → Word

/-- What a byte of physical memory that nothing has written reads as: "any value" (R450, I14), one unknown byte for each
address. -/
opaque Config.powerOnByte : Nat → Byte

end Sys2Proof
end

