-- ==== Sys2Proof/Syntax.lean ====
section
/-!
DEFINITION. Syntax.lean: the instructions of spec/opcode_table.json, one constructor for each row (30_encoding.md R120
to R125), and the request a host presents (R121, R122).
-/

namespace Sys2Proof

/-- The two instruction classes of R120: a port request, decoded by the device, and a controller operation. -/
inductive Format where
  | pio
  | op
deriving DecidableEq, Repr

/-- One request as the host presents it: its class, and its bytes, the 8-bit request or operation word first and its
operand bytes after it, the lowest first (R121, R122, R80). -/
structure Request where
  fmt : Format
  bytes : List Byte
deriving DecidableEq, Repr

/-- The rows of the opcode table. An APROM row carries its window offset `OFF[3:0]` (bit 4 is 0 in these rows); a write
row carries its data, as wide as the access; `transmit` carries its payload. -/
inductive Instr where
  -- PIO, decoded in either mode
  | apromRb (off : BitVec 4)
  | apromRw (off : BitVec 4)
  | apromRd (off : BitVec 4)
  -- PIO, word mode (WIO)
  | rdpRw
  | dwioEnter (data : Word)
  | rdpWw (data : Half)
  | rapRw
  | rapWw (data : Half)
  | resetRw
  | bdpRw
  | bdpWw (data : Half)
  -- PIO, dword mode (DWIO)
  | rdpRd
  | rdpWd (data : Word)
  | rapRd
  | rapWd (data : Word)
  | resetRd
  | bdpRd
  | bdpWd (data : Word)
  -- OP
  | attach
  | initializeOp
  | isr
  | transmit (payload : List Byte)
  | receive
  | disable
  | release
deriving DecidableEq, Repr

end Sys2Proof
end

