-- ==== Sys2Proof/Machine/State.lean ====
section
/-!
DEFINITION. Machine/State.lean: the state of the DRC, its three agents and its environment (10_state.md), the reasons a
step can stop, and the machine right after reset (70_reset_and_hazards.md R450).
-/

namespace Sys2Proof.Machine

/-- Physical memory (R48): the bytes written so far, as (address, byte) pairs. An address that is not listed has not
been written; `readByte` of Machine/Memory.lean says what it reads as. -/
abbrev Memory := List Host.Cell

/-! ### Device -/

/-- The stored fields of CSR0 (R24). ERR and INTR are derived (R25), and STOP is derived from `devState` (R34). -/
structure Csr0 where
  babl : Bool
  cerr : Bool
  miss : Bool
  merr : Bool
  rint : Bool
  tint : Bool
  idon : Bool
  iena : Bool
  rxon : Bool
  txon : Bool
  tdmd : Bool
  strt : Bool
  init : Bool
deriving DecidableEq, Repr

/-- CSR0 with every stored field clear, as H_RESET, S_RESET and STOP leave it; CSR0 then reads 0x0004 (R24). -/
def Csr0.clear : Csr0 :=
  ⟨false, false, false, false, false, false, false, false, false, false, false, false, false⟩

/-- The stored fields of CSR4 (R28); its other bits read 0. -/
structure Csr4 where
  mfco : Bool
  mfcom : Bool
deriving DecidableEq, Repr

/-- The device's run state (R34). -/
inductive DevState where
  /-- The device performs no memory access. -/
  | stopped
  /-- INIT accepted, initialization block not yet read. -/
  | initPending
  /-- Initialization block read, not started. -/
  | inited
  /-- Started. -/
  | running
deriving DecidableEq, Repr

/-- The device (agent `DEV`): port interface state, CSRs, BCRs and internal state (10_state.md sections 2 to 5). -/
structure Dev where
  /-- `true` in dword I/O mode (R22). -/
  dwio : Bool
  /-- The register address port (R23). -/
  rap : Byte
  /-- CSR0 (R24). -/
  csr0 : Csr0
  /-- CSR1, `IADR[15:0]` (R26). -/
  csr1 : Half
  /-- CSR2, `IADR[31:16]` (R27). -/
  csr2 : Half
  /-- CSR4 (R28). -/
  csr4 : Csr4
  /-- CSR15, MODE (R29). -/
  csr15 : Half
  /-- CSR112, the missed-frame count (R30). -/
  csr112 : Half
  /-- BCR20.SWSTYLE (R32). -/
  swstyle : Byte
  /-- The run state (R34). -/
  devState : DevState
  /-- A STRT accepted while INIT_PENDING (R35). -/
  pendingStart : Bool
  /-- The model's own: `stop()` has left CSR0 at its STOP value of R24, and neither CSR0 nor CSR4 has been written since
  (log entry 22). -/
  atStop : Bool
  /-- Latched station address (R36, R91). -/
  padr : BitVec 48
  /-- Latched logical address filter (R36). -/
  ladrf : BitVec 64
  /-- Latched RX ring base (R36). -/
  rdra : Word
  /-- Latched TX ring base (R36). -/
  tdra : Word
  /-- Latched RX ring length, 1 to 512 (R36). -/
  rlen : Nat
  /-- Latched TX ring length, 1 to 512 (R36). -/
  tlen : Nat
  /-- The next RX descriptor the device fills (R37). -/
  rxCurDev : Nat
  /-- The next TX descriptor the device polls (R37). -/
  txCurDev : Nat
deriving DecidableEq, Repr

/-! ### Ring controller -/

/-- The DriverCore states (R39). -/
inductive Lifecycle where
  | unattached
  | attached
  | initializing
  | running
  | disabled
  | released
deriving DecidableEq, Repr

/-- The RegisterAccess variant the probe selects (R40). -/
inductive AccessMode where
  | word
  | dword
deriving DecidableEq, Repr

/-- The DMA region (R42): `REGION_BASE` and `REGION_SIZE`. -/
structure Region where
  base : Nat
  size : Nat
deriving DecidableEq, Repr

/-- The controller's counters, each a `u32` that wraps (R44). -/
structure Counters where
  rxDelivered : Word
  rxDropped : Word
  rxFram : Word
  rxOflo : Word
  rxCrc : Word
  rxBuff : Word
  rxErrOther : Word
  rxUnsupported : Word
  txPosted : Word
  txFull : Word
  txBadLength : Word
  cntBabl : Word
  cntCerr : Word
  cntMiss : Word
  cntMerr : Word
  cntMfco : Word
deriving DecidableEq, Repr

/-- Every counter 0 (R44, R311). -/
def Counters.zero : Counters := ⟨0, 0, 0, 0, 0, 0, 0, 0, 0, 0, 0, 0, 0, 0, 0, 0⟩

/-- The ring controller (agent `CTL`, 10_state.md section 6). `accessMode` and `mac` are "without value" until an attach
sets them (R40, R41, R450), and `region` is "either `none` or the DMA region" (R42): the spec's own states. -/
structure Ctl where
  lc : Lifecycle
  accessMode : Option AccessMode
  mac : Option (BitVec 48)
  region : Option Region
  /-- The region that `RELEASE` gave back, which no device access may reach (R94, R463; the model's field, log entry 23). -/
  freed : Option Region
  rxCur : Nat
  txCur : Nat
  counters : Counters
  ioClaimed : Bool
  irqRegistered : Bool
deriving DecidableEq, Repr

/-! ### Environment -/

/-- A frame on the wire with the environment's error marks (R46); a frame has at least one byte. -/
structure Frame where
  bytes : List Byte
  crcErr : Bool
  framErr : Bool
  ofloErr : Bool
deriving DecidableEq, Repr

/-- The platform's answers, the draws of `ATTACH` (R311, R312): whether base information, the IRQ and the I/O ports can
be had, whether a device answers in the window (R188, "a window with no device"), and the base of the DMA allocation.
The model's form for these draws (log entry 7); R46's environment may set them anew at any step. -/
structure Platform where
  ioBaseKnown : Bool
  irqAvailable : Bool
  ioAvailable : Bool
  deviceAnswers : Bool
  alloc : Option Nat
deriving DecidableEq, Repr

/-- Every draw succeeds and the platform returns 0x00100000 (95_test_vectors.md section 4.1). -/
def Platform.granting : Platform := ⟨true, true, true, true, some 0x00100000⟩

/-- The environment (agent `ENV`, R46). -/
structure Env where
  /-- Frames arriving from the wire, consumed in order by the device. -/
  rxIn : List Frame
  /-- Frames the device has put on the wire, in order. -/
  txOut : List (List Byte)
  /-- Payloads passed to `onReceive`, in order. -/
  stackIn : List (List Byte)
  /-- The platform's answers (log entry 7). -/
  platform : Platform
deriving DecidableEq, Repr

/-! ### Agent steps and the schedule -/

/-- The transmit outcome draw of R367. -/
inductive TxOutcome where
  | ok
  | uflo
  | lcol
deriving DecidableEq, Repr

/-- A step of `DEV` or `ENV` (R134). `tx` carries the draws R367 gives the step; `platform` is the environment choosing
its answers to the draws of a coming `ATTACH`. A step that is not enabled when its turn comes does not occur. -/
inductive AgentStep where
  /-- `dev.init` (R362). -/
  | init
  /-- `dev.tx` (R365) with its outcome and its collision-error bit. -/
  | tx (outcome : TxOutcome) (collision : Bool)
  /-- `dev.rx` (R370). -/
  | rx
  /-- `env.frame` (R46): a frame arrives on the wire. -/
  | frame (f : Frame)
  /-- The platform's answers change (R311, R312). -/
  | platform (p : Platform)
deriving DecidableEq, Repr

/-- What falls between two steps of a controller operation: a step of another agent (R11, R323), or a port request the host
issues of its own, which it may do "at any time when it is the `CTL` agent's step" (R326), with its request word and
its data bytes (R121). -/
inductive Move where
  | agent (a : AgentStep)
  | port (word : Byte) (data : List Byte)
deriving DecidableEq, Repr

/-- What happens next: the host presents a request (a port request or a controller operation, R120; ISR dispatch by the
environment among them, R134), or another agent steps. -/
inductive Event where
  | request (r : Request)
  | agent (a : AgentStep)
deriving DecidableEq, Repr

/-! ### Results, protocol faults and refusals of the spec -/

/-- The attach errors of R418. -/
inductive AttachError where
  | noBaseAddress
  | irqUnavailable
  | ioUnavailable
  | notRecognized
  | noMemory
deriving DecidableEq, Repr

/-- The transmit errors of R418. -/
inductive TxError where
  | notOwned
  | badLength
  | badState
deriving DecidableEq, Repr

/-- What the last request gave back: a port read's data, or the result of a controller operation (R10, R418, R256). -/
inductive Result where
  /-- No request has completed yet. -/
  | none
  /-- The data of a port read of `bytes` bytes, zero-extended. -/
  | read (bytes : Nat) (value : Word)
  /-- A port write gives nothing back. -/
  | written
  /-- `Ok` (code 0). -/
  | ok
  /-- `Err(AttachError(e))`. -/
  | attachError (e : AttachError)
  /-- `Err(TxError(e))` of `TRANSMIT`. -/
  | txError (e : TxError)
  /-- `Err(BadState)` of `ATTACH`, `INITIALIZE` and `RECEIVE`. -/
  | badState
  /-- `RECEIVE` took a packet. -/
  | packet (payload : List Byte)
  /-- `RECEIVE` dropped a descriptor. -/
  | dropped
  /-- `RECEIVE` found nothing new. -/
  | empty
  /-- `ISR` ended; it returns nothing. -/
  | serviced
  /-- An ISR dispatch while no handler is registered: the handler is not invoked (R310, "never invoked"). -/
  | notInvoked
deriving DecidableEq, Repr

/-- The two rings (42_descriptor_ring.md). -/
inductive Ring where
  | rx
  | tx
deriving DecidableEq, Repr

/-- The kinds of protocol violation (R416). -/
inductive ViolationKind where
  | doubleRelease
  | doubleClaim
  | touchDeviceOwned
deriving DecidableEq, Repr

/-- The spec's `FaultReason` (R47, R416): recorded in `faults`; "the faulting access is not performed and the run
continues". -/
inductive FaultReason where
  | protocolViolation (kind : ViolationKind) (ring : Ring) (index : Nat)
deriving DecidableEq, Repr

/-- The reasons of `refuse` (R417). -/
inductive RefuseReason where
  | unsupportedStyle
  | loopback
  | reservedOp
  | badRegion
deriving DecidableEq, Repr

/-! ### The state -/

/-- The state of the whole model (10_state.md). The first seven fields are the spec's; the rest are the model's own, named
in the inventory: the parameters, the inputs a step reads (`agenda`, `interleave`), the number of draws of a RESET
read so far (`resetReads`), and what requests gave back (`result`, `portAnswers`). -/
structure State where
  /-- Agent `DEV`. -/
  dev : Dev
  /-- Agent `CTL`. -/
  ctl : Ctl
  /-- Agent `ENV`. -/
  env : Env
  /-- Physical memory (R48). -/
  mem : Memory
  /-- The recorded protocol violations, oldest first (R47). -/
  faults : List FaultReason
  /-- `refused` of R47, with the reason of the `refuse` that set it: `none` is `refused = false`. -/
  refusal : Option RefuseReason
  /-- The parameters (R6); no step changes them. -/
  cfg : Params
  /-- The events still to come, the next one first. -/
  agenda : List Event
  /-- For each coming boundary between two steps of a controller operation, the steps other agents take and the port
  requests the host issues there (R11, R172, R323, R326); when the list is used up, none. -/
  interleave : List (List Move)
  /-- How many reads of the RESET port have drawn a value (R169). -/
  resetReads : Nat
  /-- What the last request gave back. -/
  result : Result
  /-- What the port requests inside controller operations gave back, oldest first (R326). -/
  portAnswers : List Result
deriving DecidableEq, Repr

/-- Why the machine stops with a fault. The spec's own faults are recorded in `State.faults` and stop nothing (R416);
these three are raised only in states no run reaches, and are safe. -/
inductive Fault where
  /-- A controller operation needs `accessMode` and it has no value: "a model reading it then is a fault that cannot
  arise" (R40, I28). Raised by `INITIALIZE`, `ISR`, `TRANSMIT`, `DISABLE` and `RELEASE`. Safe. -/
  | noAccessMode
  /-- A controller operation reaches into the DMA region and there is none (R42, R94): raised by `INITIALIZE`, `ISR`,
  `TRANSMIT` and `RECEIVE`. Safe. -/
  | noRegion
  /-- The region does not lie inside the 2^32 bytes of physical memory (R6, R48): an address that does not exist.
  Raised by `INITIALIZE`, `ISR`, `TRANSMIT` and `RECEIVE`. Safe. -/
  | regionOutsideMemory
deriving DecidableEq, Repr

/-- Why the machine refuses to go on. -/
inductive Refusal where
  /-- An instruction without a meaning, by its mnemonic. Every instruction has one, so nothing raises it. Safe. -/
  | notModelled (mnemonic : String)
  /-- The run was marked refused for this reason: "the model then takes no further step of any agent" (R417). Raised by
  every step and every instruction from a marked state. Safe. -/
  | runRefused (reason : RefuseReason)
  /-- The request is no bus cycle of R121 and no operation of R122 (no word, or the wrong number of operand bytes).
  Raised by the step that meets it; the host cannot present one. Safe. -/
  | malformedRequest
deriving DecidableEq, Repr

/-- What a step gives. -/
abbrev Out := Host.Outcome State Fault Refusal

/-! ### Reset -/

/-- The device right after H_RESET (R450). CSR1, CSR2, the latched values and the device cursors are "unspecified": the
values here are the model's (log entries 1 and 2). -/
def Dev.hReset : Dev where
  dwio := false
  rap := 0
  csr0 := Csr0.clear
  csr1 := 0
  csr2 := 0
  csr4 := ⟨false, false⟩
  csr15 := 0
  csr112 := 0
  swstyle := 0
  devState := .stopped
  pendingStart := false
  atStop := false
  padr := 0
  ladrf := 0
  rdra := 0
  tdra := 0
  rlen := 1
  tlen := 1
  rxCurDev := 0
  txCurDev := 0

/-- The controller at the start of a run (R450). The cursors have no stated value before ring construction (log entry
2). -/
def Ctl.initial : Ctl where
  lc := .unattached
  accessMode := none
  mac := none
  region := none
  freed := none
  rxCur := 0
  txCur := 0
  counters := Counters.zero
  ioClaimed := false
  irqRegistered := false

/-- The H_RESET state of R450 for any parameters and any platform (R453). -/
def State.hReset (p : Params) (platform : Platform) : State where
  dev := Dev.hReset
  ctl := Ctl.initial
  env := ⟨[], [], [], platform⟩
  mem := []
  faults := []
  refusal := none
  cfg := p
  agenda := []
  interleave := []
  resetReads := 0
  result := .none
  portAnswers := []

/-- The machine right after reset, with the default configuration of 95_test_vectors.md (log entries 3 and 7). -/
def State.reset : State := State.hReset Params.default Platform.granting

end Sys2Proof.Machine
end

