-- ==== Sys2Proof/Machine/Flags.lean ====
section
/-!
DEFINITION. Machine/Flags.lean: the flags of the DRC (10_state.md R24, R25, R38, R49): CSR0 and CSR4 as words, their
derived bits, the acknowledge of the write-1-to-clear flags (41_csr_file.md R202), and the descriptor status words
(20_memory.md R86, R87).
-/

namespace Sys2Proof.Machine

/-- `ERR = BABL | CERR | MISS | MERR` (R25). -/
def errBit (d : Dev) : Bool := d.csr0.babl || d.csr0.cerr || d.csr0.miss || d.csr0.merr

/-- `BABL | MISS | MERR | RINT | TINT | IDON | (MFCO & ~MFCOM)`, the formula of INTR (R25); CERR is not in it. -/
def intrSources (d : Dev) : Bool :=
  d.csr0.babl || d.csr0.miss || d.csr0.merr || d.csr0.rint || d.csr0.tint || d.csr0.idon ||
    (d.csr4.mfco && !d.csr4.mfcom)

/-- CSR0.STOP reads 1 exactly when the device is STOPPED (R34). -/
def stopBit (d : Dev) : Bool := d.devState == .stopped

/-- `INTR` as CSR0 reads it: the formula of R25, but 0 from a `stop()` to the next write of CSR0 or CSR4, where R24, R203,
R210, R321 and R452 say that CSR0 is 0x0004. DESIGN CHOICE (log entry 22): the two differ only where `stop()` met an
unmasked CSR4.MFCO, and `irq` is `intrSources & IENA` either way (`irq_eq_sources`). Unsafe for a claim about CSR0.INTR in
that case. -/
def intrBit (d : Dev) : Bool := intrSources d && !d.atStop

/-- The interrupt line `irq = INTR & IENA`, a level (R38). -/
def irq (d : Dev) : Bool := intrBit d && d.csr0.iena

/-- A flag at bit `k` of a 16-bit register. -/
def flagAt (b : Bool) (k : Nat) : Half := (BitVec.ofBool b).setWidth 16 <<< k

/-- The word CSR0 reads as (R24, R200). -/
def csr0Word (d : Dev) : Half :=
  flagAt (errBit d) 15 ||| flagAt d.csr0.babl 14 ||| flagAt d.csr0.cerr 13 ||| flagAt d.csr0.miss 12 |||
  flagAt d.csr0.merr 11 ||| flagAt d.csr0.rint 10 ||| flagAt d.csr0.tint 9 ||| flagAt d.csr0.idon 8 |||
  flagAt (intrBit d) 7 ||| flagAt d.csr0.iena 6 ||| flagAt d.csr0.rxon 5 ||| flagAt d.csr0.txon 4 |||
  flagAt d.csr0.tdmd 3 ||| flagAt (stopBit d) 2 ||| flagAt d.csr0.strt 1 ||| flagAt d.csr0.init 0

/-- The word CSR4 reads as (R28, R200). -/
def csr4Word (d : Dev) : Half := flagAt d.csr4.mfco 9 ||| flagAt d.csr4.mfcom 8

/-- The acknowledge of a CSR0 write (R202): a 1 clears its flag, a 0 leaves it. -/
def acknowledge (c : Csr0) (v : Half) : Csr0 :=
  { c with
    babl := c.babl && !v.getLsbD 14
    cerr := c.cerr && !v.getLsbD 13
    miss := c.miss && !v.getLsbD 12
    merr := c.merr && !v.getLsbD 11
    rint := c.rint && !v.getLsbD 10
    tint := c.tint && !v.getLsbD 9
    idon := c.idon && !v.getLsbD 8 }

/-! ### Descriptor status (R86, R87) -/

/-- OWN, bit 15: 1 when the device owns the descriptor. -/
def ownBit (st : Half) : Bool := st.getLsbD 15

/-- STP, bit 9, and ENP, bit 8: the frame starts and ends in this descriptor. -/
def wholeFrame (st : Half) : Bool := st.getLsbD 9 && st.getLsbD 8

/-- The STP and ENP bits of a status word. -/
def framing (st : Half) : Half := st &&& 0x0300

/-- The RX status the device writes (R370, R373): STP and ENP, and the error bits with ERR. -/
def rxStatus (overlong framErr ofloErr crcErr : Bool) : Half :=
  0x0300 ||| (if overlong then 0x4400 else 0) ||| (if framErr then 0x6000 else 0) |||
    (if ofloErr then 0x5000 else 0) ||| (if crcErr then 0x4800 else 0)

end Sys2Proof.Machine
end

