-- ==== Sys2Proof/Machine/Layout.lean ====
section
/-!
DEFINITION. Machine/Layout.lean: the DMA region, its slots (00_scope.md R6, R7; 20_memory.md R92, R93) and the device's
DMA window (45_dma_engine.md R360). Addresses are plain numbers, so a sum never wraps: the top of the 32-bit space is
a bound that is checked.
-/

namespace Sys2Proof.Machine

/-- `DESC_SIZE` (R6). -/
def descSize : Nat := 16

/-- `INIT_BLOCK_SIZE` (R6). -/
def initBlockSize : Nat := 32

/-- The number of bytes of physical memory (R48). -/
def memoryTop : Nat := 2 ^ 32

/-- `RX_LEN` (R6). -/
def rxLen (p : Params) : Nat := 2 ^ p.rxLog2

/-- `TX_LEN` (R6). -/
def txLen (p : Params) : Nat := 2 ^ p.txLog2

/-- `RX_RING_OFF` (R7). -/
def rxRingOff : Nat := initBlockSize

/-- `TX_RING_OFF` (R7). -/
def txRingOff (p : Params) : Nat := rxRingOff + rxLen p * descSize

/-- `RX_BUF_OFF` (R7). -/
def rxBufOff (p : Params) : Nat := txRingOff p + txLen p * descSize

/-- `TX_BUF_OFF` (R7). -/
def txBufOff (p : Params) : Nat := rxBufOff p + rxLen p * p.bufferSize

/-- `REGION_SIZE` (R6). -/
def regionSize (p : Params) : Nat :=
  initBlockSize + (rxLen p + txLen p) * descSize + (rxLen p + txLen p) * p.bufferSize

/-- `rxDescAddr(i)` (R93). -/
def rxDescAddr (base i : Nat) : Nat := base + rxRingOff + descSize * i

/-- `txDescAddr(i)` (R93). -/
def txDescAddr (p : Params) (base i : Nat) : Nat := base + txRingOff p + descSize * i

/-- `rxBufAddr(i)` (R93). -/
def rxBufAddr (p : Params) (base i : Nat) : Nat := base + rxBufOff p + p.bufferSize * i

/-- `txBufAddr(i)` (R93). -/
def txBufAddr (p : Params) (base i : Nat) : Nat := base + txBufOff p + p.bufferSize * i

/-- `initBlockPhysicalAddress()` (R292): the block is at region offset 0. -/
def initBlockAddr (base : Nat) : Word := BitVec.ofNat 32 base

/-- An address is in `DMA_WINDOW`. -/
def windowHas : List (Nat × Nat) → Nat → Bool
  | [], _ => false
  | (a, n) :: w, x => (decide (a ≤ x) && decide (x < a + n)) || windowHas w x

/-- Every address in `[a, a + n)` is in `DMA_WINDOW`. -/
def windowCovers (w : List (Nat × Nat)) (a : Nat) : Nat → Bool
  | 0 => true
  | n + 1 => windowHas w a && windowCovers w (a + 1) n

/-- `dmaOk(a, n)` (R360): the access stays below the top of memory and inside the window. That no access reaches a freed
region is no part of it: such a step does not occur (`barred`, R463). -/
def dmaOk (p : Params) (a n : Nat) : Bool :=
  decide (a + n ≤ memoryTop) && windowCovers p.dmaWindow a n

/-- What R312 requires of the base the platform returns. -/
def regionOk (p : Params) (base : Nat) : Bool :=
  decide (base % 16 = 0) && dmaOk p base (regionSize p)

end Sys2Proof.Machine
end

