-- ==== Sys2Proof/WellFormed.lean ====
section
/-!
DEFINITION. WellFormed.lean: which terms of `Instr` are instructions of the table. Widths are carried by the types; what
is left to check is the natural alignment of the APROM offsets (20_memory.md R82, 30_encoding.md R125).
-/

namespace Sys2Proof

/-- An instruction is well formed when its operands are ones its row admits: a word APROM read has an even offset
(R162), a dword one an offset that is a multiple of four (R163). -/
def Instr.wf : Instr → Bool
  | .apromRb _ => true
  | .apromRw off => !off.getLsbD 0
  | .apromRd off => !off.getLsbD 0 && !off.getLsbD 1
  | .rdpRw => true
  | .dwioEnter _ => true
  | .rdpWw _ => true
  | .rapRw => true
  | .rapWw _ => true
  | .resetRw => true
  | .bdpRw => true
  | .bdpWw _ => true
  | .rdpRd => true
  | .rdpWd _ => true
  | .rapRd => true
  | .rapWd _ => true
  | .resetRd => true
  | .bdpRd => true
  | .bdpWd _ => true
  | .attach => true
  | .initializeOp => true
  | .isr => true
  | .transmit _ => true
  | .receive => true
  | .disable => true
  | .release => true

end Sys2Proof
end

