-- ==== Sys2Proof/Decode.lean ====
section
/-!
DEFINITION. Decode.lean: the decoder of request words (30_encoding.md R121 to R128, R131), total on any bytes and
rejecting by name, and after it the encoder written from the same tables.
-/

namespace Sys2Proof

/-- Why the decoder gives no instruction. -/
inductive DecodeError where
  /-- The request is no bus cycle of R121 and no operation of R122: it has no word, or not the operand bytes its row
  carries ("A write carries `data` of `1 << SZ` bytes"). Raised for requests the host cannot present. -/
  | malformed
  /-- A port request that matches no row in the current mode (R126): performed by R173. Carries the request word. -/
  | undecoded (word : Byte)
  /-- An `OP` word of no operation (R131): the run is refused with `ReservedOp`. -/
  | reservedOp
deriving DecidableEq, Repr

/-- A row without operand bytes: a read request, or an operation with no operand. -/
def bare (i : Instr) : List Byte → Except DecodeError Instr
  | [] => .ok i
  | _ :: _ => .error .malformed

/-- A word write: two data bytes, the lowest window offset in bits 7:0 (R80, R121). -/
def withHalf (f : Half → Instr) : List Byte → Except DecodeError Instr
  | [b0, b1] => .ok (f (b1 ++ b0))
  | _ => .error .malformed

/-- A dword write: four data bytes, the lowest window offset in bits 7:0 (R80, R121). -/
def withWord (f : Word → Instr) : List Byte → Except DecodeError Instr
  | [b0, b1, b2, b3] => .ok (f (b3 ++ b2 ++ b1 ++ b0))
  | _ => .error .malformed

/-- The port decoder of R125: the match and mask of each row, in the mode `dwio` selects (R127). -/
def decodePio (dwio : Bool) (w : Byte) (data : List Byte) : Except DecodeError Instr :=
  if w &&& 0xF0 = 0x00 then bare (.apromRb (w.extractLsb' 0 4)) data
  else if w &&& 0xF1 = 0x20 then bare (.apromRw (w.extractLsb' 0 4)) data
  else if w &&& 0xF3 = 0x40 then bare (.apromRd (w.extractLsb' 0 4)) data
  else match dwio with
    | false =>
      if w = 0x30 then bare .rdpRw data
      else if w = 0xD0 then withWord .dwioEnter data
      else if w = 0xB0 then withHalf .rdpWw data
      else if w = 0x32 then bare .rapRw data
      else if w = 0xB2 then withHalf .rapWw data
      else if w = 0x34 then bare .resetRw data
      else if w = 0x36 then bare .bdpRw data
      else if w = 0xB6 then withHalf .bdpWw data
      else .error (.undecoded w)
    | true =>
      if w = 0x50 then bare .rdpRd data
      else if w = 0xD0 then withWord .rdpWd data
      else if w = 0x54 then bare .rapRd data
      else if w = 0xD4 then withWord .rapWd data
      else if w = 0x58 then bare .resetRd data
      else if w = 0x5C then bare .bdpRd data
      else if w = 0xDC then withWord .bdpWd data
      else .error (.undecoded w)

/-- The operation decoder of R122: `OPC[7:4] : 0000`; every other word is reserved (R131). -/
def decodeOp (w : Byte) (data : List Byte) : Except DecodeError Instr :=
  if w = 0x10 then bare .attach data
  else if w = 0x20 then bare .initializeOp data
  else if w = 0x30 then bare .isr data
  else if w = 0x40 then .ok (.transmit data)
  else if w = 0x50 then bare .receive data
  else if w = 0x60 then bare .disable data
  else if w = 0x70 then bare .release data
  else .error .reservedOp

/-- The instruction a request spells in the mode `dwio` (R128). -/
def decodeRequest (dwio : Bool) (r : Request) : Except DecodeError Instr :=
  match r.bytes with
  | [] => .error .malformed
  | w :: data =>
    match r.fmt with
    | .pio => decodePio dwio w data
    | .op => decodeOp w data

/-- The two bytes of a `u16`, the lowest address or offset first (R80). -/
def halfBytes (v : Half) : List Byte := [v.extractLsb' 0 8, v.extractLsb' 8 8]

/-- The four bytes of a `u32`, the lowest address or offset first (R80). -/
def wordBytes (v : Word) : List Byte :=
  [v.extractLsb' 0 8, v.extractLsb' 8 8, v.extractLsb' 16 8, v.extractLsb' 24 8]

/-- A port request of class `PIO`. -/
def pioRequest (w : Byte) (data : List Byte) : Request := ⟨.pio, w :: data⟩

/-- A controller operation of class `OP`. -/
def opRequest (w : Byte) (data : List Byte) : Request := ⟨.op, w :: data⟩

/-- The request that spells an instruction: its row's word from R122 or R125, and its operand bytes. -/
def encode : Instr → Request
  | .apromRb off => pioRequest (0x00 ||| off.setWidth 8) []
  | .apromRw off => pioRequest (0x20 ||| off.setWidth 8) []
  | .apromRd off => pioRequest (0x40 ||| off.setWidth 8) []
  | .rdpRw => pioRequest 0x30 []
  | .dwioEnter data => pioRequest 0xD0 (wordBytes data)
  | .rdpWw data => pioRequest 0xB0 (halfBytes data)
  | .rapRw => pioRequest 0x32 []
  | .rapWw data => pioRequest 0xB2 (halfBytes data)
  | .resetRw => pioRequest 0x34 []
  | .bdpRw => pioRequest 0x36 []
  | .bdpWw data => pioRequest 0xB6 (halfBytes data)
  | .rdpRd => pioRequest 0x50 []
  | .rdpWd data => pioRequest 0xD0 (wordBytes data)
  | .rapRd => pioRequest 0x54 []
  | .rapWd data => pioRequest 0xD4 (wordBytes data)
  | .resetRd => pioRequest 0x58 []
  | .bdpRd => pioRequest 0x5C []
  | .bdpWd data => pioRequest 0xDC (wordBytes data)
  | .attach => opRequest 0x10 []
  | .initializeOp => opRequest 0x20 []
  | .isr => opRequest 0x30 []
  | .transmit payload => opRequest 0x40 payload
  | .receive => opRequest 0x50 []
  | .disable => opRequest 0x60 []
  | .release => opRequest 0x70 []

/-- The decoder mode of a row (the `mode` column of R125): both modes, word mode or dword mode. -/
inductive RowMode where
  | any
  | wio
  | dwio
deriving DecidableEq, Repr

/-- A row of mode `m` is decoded while the port decoder's `dwio` is `d` (R127). -/
def modeAdmits (m : RowMode) (d : Bool) : Bool :=
  match m with
  | .any => true
  | .wio => !d
  | .dwio => d

/-- The mode column of R125; a controller operation is decoded in both modes. -/
def rowMode : Instr → RowMode
  | .apromRb _ => .any
  | .apromRw _ => .any
  | .apromRd _ => .any
  | .rdpRw => .wio
  | .dwioEnter _ => .wio
  | .rdpWw _ => .wio
  | .rapRw => .wio
  | .rapWw _ => .wio
  | .resetRw => .wio
  | .bdpRw => .wio
  | .bdpWw _ => .wio
  | .rdpRd => .dwio
  | .rdpWd _ => .dwio
  | .rapRd => .dwio
  | .rapWd _ => .dwio
  | .resetRd => .dwio
  | .bdpRd => .dwio
  | .bdpWd _ => .dwio
  | .attach => .any
  | .initializeOp => .any
  | .isr => .any
  | .transmit _ => .any
  | .receive => .any
  | .disable => .any
  | .release => .any

/-- The decoder mode in which `i` is read: the present one where its row admits it, else the other. -/
def modeFor (i : Instr) (dwio : Bool) : Bool :=
  if modeAdmits (rowMode i) dwio then dwio else !dwio

/-- The width of a port access of size field `SZ`: `1 << SZ` bytes; an undecoded `SZ = 11` answers as a dword (R121,
R173). -/
def sizeBytes (sz : BitVec 2) : Nat :=
  if sz = 0 then 1 else if sz = 1 then 2 else 4

/-- The request word `W<<7 | SZ<<5 | OFF` of R121. -/
def pioWord (write : Bool) (sz : BitVec 2) (off : BitVec 5) : Byte :=
  (BitVec.ofBool write ++ sz ++ off : BitVec 8)

/-- Byte `k` of the number `w`, byte 0 its least significant. -/
def byteOf (w k : Nat) : Byte := BitVec.ofNat 8 (w / 2 ^ (8 * k))

/-- Bytes `k` to `k + n - 1` of the number `w`. -/
def bytesFrom (w k : Nat) : Nat → List Byte
  | 0 => []
  | n + 1 => byteOf w k :: bytesFrom w (k + 1) n

/-- The request of class `fmt` that a table word of `nbits` bits spells: the word, then the operand bytes its class
carries, zero above `nbits` (a write row's data; the payload of `TRANSMIT` is the bytes the table word has). -/
def tableRequest (fmt : Format) (nbits w : Nat) : Request :=
  let v := w % 2 ^ nbits
  let word := byteOf v 0
  let n :=
    match fmt with
    | .pio => if word.getLsbD 7 then sizeBytes (word.extractLsb' 5 2) else 0
    | .op => if word = 0x40 then nbits / 8 - 1 else 0
  ⟨fmt, word :: bytesFrom v 1 n⟩

/-- The class and mode in which a table word is read. `PIO` and `OP` words are numbered apart (R121, R122) and 0xD0 is
two rows (R125), so a bare 8-bit word does not say which it is: an operation word is read as the operation, then as
a port request in word mode, then in dword mode (log entry 5). -/
def tableReading (nbits w : Nat) : Option (Request × Instr) :=
  let o := tableRequest .op nbits w
  let p := tableRequest .pio nbits w
  match decodeRequest false o with
  | .ok i => some (o, i)
  | .error _ =>
    match decodeRequest false p with
    | .ok i => some (p, i)
    | .error _ =>
      match decodeRequest true p with
      | .ok i => some (p, i)
      | .error _ => none

/-- The instruction the decoder reads from a table word (the host's question). -/
def decodeTableWord (nbits w : Nat) : Option Instr :=
  (tableReading nbits w).map (·.2)

end Sys2Proof
end

