-- ==== Sys2Proof/Machine/Memory.lean ====
section
/-!
DEFINITION. Machine/Memory.lean: physical memory, a byte-addressed space (10_state.md R48), and the little-endian values
built from it (20_memory.md R80, R81).
-/

namespace Sys2Proof.Machine

/-- The byte written at an address, if one was. -/
def Memory.lookup : Memory → Nat → Option Byte
  | [], _ => none
  | (a, b) :: m, x => if a = x then some b else Memory.lookup m x

/-- Writes one byte, keeping the addresses strictly rising. -/
def Memory.insert (x : Nat) (v : Byte) : Memory → Memory
  | [] => [(x, v)]
  | (a, b) :: m =>
    if x < a then (x, v) :: (a, b) :: m
    else if x = a then (x, v) :: m
    else (a, b) :: Memory.insert x v m

/-- The canonical form: addresses strictly rising. (An unlisted address has no written byte, so no entry can equal what
an unlisted address holds.) -/
def Memory.wf : Memory → Bool
  | [] => true
  | [_] => true
  | (a, _) :: (b, y) :: m => decide (a < b) && Memory.wf ((b, y) :: m)

/-- One byte of memory: the last byte written there, or the unknown byte the address held at power-on (I14). -/
def readByte (m : Memory) (a : Nat) : Byte :=
  (Memory.lookup m a).getD (Config.powerOnByte a)

/-- `n` bytes at increasing addresses, in order (R81). -/
def readBytes (m : Memory) (a : Nat) : Nat → List Byte
  | 0 => []
  | n + 1 => readByte m a :: readBytes m (a + 1) n

/-- Stores a byte string at increasing addresses (R81). -/
def writeBytes (m : Memory) (a : Nat) : List Byte → Memory
  | [] => m
  | b :: bs => writeBytes (Memory.insert a b m) (a + 1) bs

/-- `MemRead(a, 2)`: the byte at the lowest address is the least significant (R80). -/
def read16 (m : Memory) (a : Nat) : Half := readByte m (a + 1) ++ readByte m a

/-- `MemRead(a, 4)` (R80). -/
def read32 (m : Memory) (a : Nat) : Word := read16 m (a + 2) ++ read16 m a

/-- `MemRead(a, 8)` (R80). -/
def read64 (m : Memory) (a : Nat) : BitVec 64 := read32 m (a + 4) ++ read32 m a

/-- `MemWrite(a, 2, v)` (R80). -/
def write16 (m : Memory) (a : Nat) (v : Half) : Memory := writeBytes m a (halfBytes v)

/-- The eight bytes of a `u64`, the lowest address first (R80). -/
def doubleBytes (v : BitVec 64) : List Byte :=
  wordBytes (v.extractLsb' 0 32) ++ wordBytes (v.extractLsb' 32 32)

end Sys2Proof.Machine
end

