-- ==== Sys2Proof/Machine/Operands.lean ====
section
/-!
DEFINITION. Machine/Operands.lean: how operands are cut and assembled (30_encoding.md R123, R124), the byte-count encoding
(00_scope.md R9, 20_memory.md R88), and the address bytes (20_memory.md R91).
-/

namespace Sys2Proof.Machine

/-- A RAP write uses `data[7:0]` (R123). -/
def rapData (v : Half) : Byte := v.extractLsb' 0 8

/-- An RDP or BDP dword write uses `data[15:0]` (R123). -/
def registerData (v : Word) : Half := v.extractLsb' 0 16

/-- The all-ones answer of an undecoded read of `n` bytes, zero-extended (R173). -/
def allOnes (n : Nat) : Word :=
  match n with
  | 1 => 0x000000FF
  | 2 => 0x0000FFFF
  | _ => 0xFFFFFFFF

/-- One byte of the address PROM (R161). -/
def apromByte (p : Params) (off : BitVec 4) : Byte := p.aprom.get off.toFin

/-- Two bytes of the address PROM, the lower offset in bits 7:0 (R162). -/
def apromHalf (p : Params) (off : BitVec 4) : Half := apromByte p (off + 1) ++ apromByte p off

/-- Four bytes of the address PROM, the lowest offset in bits 7:0 (R163). -/
def apromWord (p : Params) (off : BitVec 4) : Word := apromHalf p (off + 2) ++ apromHalf p off

/-- `neg16(n)`: the 16-bit two's-complement negation of a length (R9, R88). -/
def neg16 (n : Nat) : Half := BitVec.ofNat 16 (2 ^ 16 - n % 2 ^ 16)

/-- `dec16(b) = - sext(b)`, an integer (R9). -/
def dec16 (b : Half) : Int := -b.toInt

/-- The length a device accepts: 1 to 4095, else none (R88). -/
def deviceLength (b : Half) : Option Nat :=
  if 1 ≤ dec16 b ∧ dec16 b ≤ 4095 then some (dec16 b).toNat else none

/-- Six bytes, octet 0 in bits 7:0 (R91). -/
def addressOf (b0 b1 b2 b3 b4 b5 : Byte) : BitVec 48 := b5 ++ b4 ++ b3 ++ b2 ++ b1 ++ b0

/-- The six octets of a station address, octet 0 first (R91). -/
def addressBytes (v : BitVec 48) : List Byte :=
  [v.extractLsb' 0 8, v.extractLsb' 8 8, v.extractLsb' 16 8, v.extractLsb' 24 8, v.extractLsb' 32 8,
    v.extractLsb' 40 8]

/-- The broadcast address (R371). -/
def broadcastBytes : List Byte := [0xFF, 0xFF, 0xFF, 0xFF, 0xFF, 0xFF]

/-- The ring length a 4-bit `RLEN` or `TLEN` field `L` gives: `2^min(L, 9)` (R90). -/
def ringLength (l : BitVec 4) : Nat := 2 ^ min l.toNat 9

end Sys2Proof.Machine
end

