-- ==== Sys2Proof/Machine/Ops.lean ====
section
/-!
DEFINITION. Machine/Ops.lean: the named operations: the fault and refusal marks (60_exceptions.md R416, R417), the resets
(70_reset_and_hazards.md R451, R452), the CSR and BCR file (41_csr_file.md), and descriptor ownership
(42_descriptor_ring.md R250 to R253).

The DRC has no processor exception: "no operation of the DRC transfers control to a handler address", and there is no
saved program counter and no return (R410). Its exception mechanism is the interrupt line (`irq`, Flags.lean), the
`ISR` operation (Driver.lean), the error results, and the two marks below.
-/

namespace Sys2Proof.Machine

/-! ### Marks -/

/-- `raise Fault(reason)`: recorded, never cleared, and the run continues (R10, R416). -/
def raiseFault (reason : FaultReason) (s : State) : State :=
  { s with faults := s.faults ++ [reason] }

/-- `refuse(reason)`: the whole state is marked refused (R10, R417). -/
def refuse (reason : RefuseReason) (s : State) : State :=
  { s with refusal := some reason }

/-- An instruction acts only in a run that is not marked refused (R417). -/
def whenLive (s : State) (k : State → Out) : Out :=
  match s.refusal with
  | some r => .refused (.runRefused r)
  | none => k s

/-- The end of a request, with what it gives back. -/
def finish (r : Result) (s : State) : Out := .next { s with result := r }

/-! ### Device commands and resets -/

/-- `start()` (R209). -/
def devStart (d : Dev) : Dev :=
  { d with
    devState := .running
    csr0 := { d.csr0 with strt := true, rxon := !d.csr15.getLsbD 0, txon := !d.csr15.getLsbD 1 } }

/-- `stop()` (R210, R452): the pseudocode of R210, with CSR4 unchanged. CSR0 then reads 0x0004, whatever CSR4 holds
(`csr0Word_devStop`; for CSR0.INTR see `intrBit` and log entry 22). -/
def devStop (d : Dev) : Dev :=
  { d with devState := .stopped, pendingStart := false, csr0 := Csr0.clear, atStop := true }

/-- `S_RESET()` (R451). -/
def devSReset (d : Dev) : Dev :=
  { d with
    devState := .stopped
    pendingStart := false
    atStop := false
    csr0 := Csr0.clear
    csr4 := ⟨false, false⟩
    csr15 := 0
    csr112 := 0
    rap := 0 }

/-! ### CSR and BCR file -/

/-- `CsrRead(n)` (R200): no side effect. -/
def csrRead (d : Dev) (n : Byte) : Half :=
  if n = 0 then csr0Word d
  else if n = 1 then d.csr1
  else if n = 2 then d.csr2
  else if n = 4 then csr4Word d
  else if n = 15 then d.csr15
  else if n = 112 then d.csr112
  else 0

/-- INIT and STRT of a CSR0 write (R205, R206): INIT is accepted only from STOPPED; a STRT whose write did not take the
INIT branch starts an INITED device and is remembered while INIT_PENDING. -/
def commandInitStrt (d : Dev) (v : Half) : Dev :=
  if v.getLsbD 0 && d.devState == .stopped then
    { d with csr0 := { d.csr0 with init := true }, devState := .initPending, pendingStart := v.getLsbD 1 }
  else if v.getLsbD 1 then
    match d.devState with
    | .inited => devStart d
    | .initPending => { d with pendingStart := true }
    | .stopped => d
    | .running => d
  else d

/-- TDMD of a CSR0 write (R207): accepted only when RUNNING with TXON. -/
def commandTdmd (d : Dev) (v : Half) : Dev :=
  if v.getLsbD 3 && d.devState == .running && d.csr0.txon then
    { d with csr0 := { d.csr0 with tdmd := true } }
  else d

/-- `CsrWrite0(v)` (R208): acknowledge, then STOP, which suppresses the rest, then IENA, INIT or STRT, and TDMD.
Any other write than STOP ends the STOP value of CSR0 (`atStop`, log entry 22). -/
def csr0Write (d : Dev) (v : Half) : Dev :=
  let d := { d with csr0 := acknowledge d.csr0 v, atStop := false }
  if v.getLsbD 2 then devStop d
  else
    let d := { d with csr0 := { d.csr0 with iena := v.getLsbD 6 } }
    commandTdmd (commandInitStrt d v) v

/-- A CSR4 write (R212): MFCO is write-1-to-clear, MFCOM is plain. INTR follows R25 from then on (`atStop`, log entry 22). -/
def csr4Write (d : Dev) (v : Half) : Dev :=
  { d with csr4 := ⟨d.csr4.mfco && !v.getLsbD 9, v.getLsbD 8⟩, atStop := false }

/-- `CsrWrite(n, v)` (R201): CSR1, CSR2 and CSR15 take a write only while STOPPED (R211, R213); CSR112 is read-only
(R214); every other number ignores the write (R31). -/
def csrWrite (d : Dev) (n : Byte) (v : Half) : Dev :=
  if n = 0 then csr0Write d v
  else if n = 1 then if d.devState = .stopped then { d with csr1 := v } else d
  else if n = 2 then if d.devState = .stopped then { d with csr2 := v } else d
  else if n = 4 then csr4Write d v
  else if n = 15 then if d.devState = .stopped then { d with csr15 := v } else d
  else d

/-- `BcrRead(n)` (R215). -/
def bcrRead (d : Dev) (n : Byte) : Half :=
  if n = 20 then d.swstyle.setWidth 16 else 0

/-- `BcrWrite(n, v)` (R215): BCR20 takes a write only while STOPPED. -/
def bcrWrite (d : Dev) (n : Byte) (v : Half) : Dev :=
  if n = 20 then if d.devState = .stopped then { d with swstyle := v.extractLsb' 0 8 } else d
  else d

/-! ### Descriptor ownership -/

/-- The OWN test of R250: the status word's bit 15. -/
def deviceOwns (m : Memory) (d : Nat) : Bool := ownBit (read16 m d)

/-- `MemWrite(d, 2, st)`: the status word of a descriptor. -/
def putStatus (d : Nat) (st : Half) (s : State) : State :=
  { s with mem := write16 s.mem d st }

/-- `release(ring, i, st)` (R251): software hands the descriptor at `d` to the device. -/
def releaseDesc (ring : Ring) (i d : Nat) (st : Half) (s : State) : State :=
  if s.dev.devState ≠ .stopped ∧ deviceOwns s.mem d then
    raiseFault (.protocolViolation .doubleRelease ring i) s
  else putStatus d st s

/-- `claim(ring, i, st)` (R252): the device returns the descriptor at `d` to software. DESIGN CHOICE (log entry 26): R252
computes the address from the controller's region, R364, R365 and R370 from `tdra` and `rdra`; `d` is the latter, where the
device has read the descriptor. Unsafe for a claim about a device that the host started on another block. -/
def claimDesc (ring : Ring) (i d : Nat) (st : Half) (s : State) : State :=
  if deviceOwns s.mem d then putStatus d st s
  else raiseFault (.protocolViolation .doubleClaim ring i) s

/-- A controller store into descriptor `i` of a ring (at `d`) or into its buffer (R253): while the device is not STOPPED
and owns the descriptor, it is a recorded fault and is not performed. R416 says that no operation raises it while the
environment keeps its duties; a port request of the host breaks none (R326), so it can arise: DESIGN CHOICE, log entry 24.
Unsafe for a claim about faults in such runs. -/
def ctlStore (ring : Ring) (i d a : Nat) (bytes : List Byte) (s : State) : State :=
  if s.dev.devState ≠ .stopped ∧ deviceOwns s.mem d then
    raiseFault (.protocolViolation .touchDeviceOwned ring i) s
  else { s with mem := writeBytes s.mem a bytes }

/-! ### Region -/

/-- The base of the DMA region, for an operation that reaches into it. -/
def withRegion (s : State) (k : Nat → Out) : Out :=
  match s.ctl.region with
  | none => .fault .noRegion
  | some r => if r.base + regionSize s.cfg ≤ memoryTop then k r.base else .fault .regionOutsideMemory

/-- The access mode, for an operation that makes a port request (R40). -/
def withAccessMode (s : State) (k : AccessMode → Out) : Out :=
  match s.ctl.accessMode with
  | none => .fault .noAccessMode
  | some m => k m

end Sys2Proof.Machine
end

