-- ==== Sys2Proof/Machine/Port.lean ====
section
/-!
DEFINITION. Machine/Port.lean: the port decoder's rows (40_register_access.md sections 1 to 4). What a row does to the
state, and the data it answers, is said once here; the instruction meanings below and the controller's own port
requests (Access.lean) both use it.
-/

namespace Sys2Proof.Machine

/-! ### Shared row actions -/

/-- A read of RDP (R164, R174): the CSR `rap` names, zero-extended; no side effect. -/
def readRdp (s : State) : Word := (csrRead s.dev s.dev.rap).setWidth 32

/-- A write of RDP (R166, R175). -/
def writeRdp (v : Half) (s : State) : State := { s with dev := csrWrite s.dev s.dev.rap v }

/-- A read of RAP (R167, R176). -/
def readRap (s : State) : Word := s.dev.rap.setWidth 32

/-- A write of RAP (R168, R177): `rap <- data[7:0]`. -/
def writeRap (v : Half) (s : State) : State := { s with dev := { s.dev with rap := rapData v } }

/-- A read of BDP (R170, R179). -/
def readBdp (s : State) : Word := (bcrRead s.dev s.dev.rap).setWidth 32

/-- A write of BDP (R171, R180). -/
def writeBdp (v : Half) (s : State) : State := { s with dev := bcrWrite s.dev s.dev.rap v }

/-- A read of RESET (R169, R178): `S_RESET()`. -/
def readReset (s : State) : State :=
  { s with dev := devSReset s.dev, resetReads := s.resetReads + 1 }

/-- The word that read of RESET answers: a draw (R169, R178). -/
def resetValue (s : State) : Word := Config.resetReadValue s.resetReads

/-- `DWIO_ENTER` (R165): the mode changes and the write is performed as an RDP write. -/
def enterDwio (data : Word) (s : State) : State :=
  writeRdp (registerData data) { s with dev := { s.dev with dwio := true } }

/-! ### Requests of the controller -/

/-- What a decoded port request answers and does. A controller operation is no port request. -/
def portRow (i : Instr) (s : State) : Word × State :=
  match i with
  | .apromRb off => ((apromByte s.cfg off).setWidth 32, s)
  | .apromRw off => ((apromHalf s.cfg off).setWidth 32, s)
  | .apromRd off => (apromWord s.cfg off, s)
  | .rdpRw => (readRdp s, s)
  | .dwioEnter data => (0, enterDwio data s)
  | .rdpWw data => (0, writeRdp data s)
  | .rapRw => (readRap s, s)
  | .rapWw data => (0, writeRap data s)
  | .resetRw => ((resetValue s).setWidth 16 |>.setWidth 32, readReset s)
  | .bdpRw => (readBdp s, s)
  | .bdpWw data => (0, writeBdp data s)
  | .rdpRd => (readRdp s, s)
  | .rdpWd data => (0, writeRdp (registerData data) s)
  | .rapRd => (readRap s, s)
  | .rapWd data => (0, writeRap (registerData data) s)
  | .resetRd => (resetValue s, readReset s)
  | .bdpRd => (readBdp s, s)
  | .bdpWd data => (0, writeBdp (registerData data) s)
  | .attach => (0, s)
  | .initializeOp => (0, s)
  | .isr => (0, s)
  | .transmit _ => (0, s)
  | .receive => (0, s)
  | .disable => (0, s)
  | .release => (0, s)

/-- `PortRead(off, w)` (R10) with `SZ = sz`: decoded against `dwio` at this moment (R160); undecoded, all ones (R173). -/
def portRead (sz : BitVec 2) (off : BitVec 5) (s : State) : Word × State :=
  match decodePio s.dev.dwio (pioWord false sz off) [] with
  | .ok i => portRow i s
  | .error _ => (allOnes (sizeBytes sz), s)

/-- `PortWrite(off, w, v)` (R10) with `SZ = sz`; undecoded, no effect (R173). -/
def portWrite (sz : BitVec 2) (off : BitVec 5) (v : Word) (s : State) : State :=
  match decodePio s.dev.dwio (pioWord true sz off) ((wordBytes v).take (sizeBytes sz)) with
  | .ok i => (portRow i s).2
  | .error _ => s

/-- What the port request of word `w` gives back (R121): a read `1 << SZ` bytes of data, a write nothing. -/
def portAnswer (w : Byte) (v : Word) : Result :=
  if w.getLsbD 7 then .written else .read (sizeBytes (w.extractLsb' 5 2)) v

/-- What an undecoded port request gives back (R173): a read all ones of its width. -/
def undecodedAnswer (w : Byte) : Result := portAnswer w (allOnes (sizeBytes (w.extractLsb' 5 2)))

/-- A port request the host issues between two steps of a controller operation (R326): decoded against `dwio` at this
moment (R160) and performed like any other, undecoded ones by R173. The operation goes on as it was, so the answer is
kept beside its result. Bytes that are no bus cycle of R121 do not occur. -/
def hostPort (w : Byte) (data : List Byte) (s : State) : State :=
  match decodePio s.dev.dwio w data with
  | .ok i =>
    let r := portRow i s
    { r.2 with portAnswers := s.portAnswers ++ [portAnswer w r.1] }
  | .error (.undecoded w) => { s with portAnswers := s.portAnswers ++ [undecodedAnswer w] }
  | .error .malformed => s
  | .error .reservedOp => s

/-! ### Meanings -/

/-- A read row of mode `m` and `n` bytes: in its mode it answers `v` and leaves `t`; in the other mode the request is
undecoded and answers all ones (R126, R173). -/
def readMeaning (m : RowMode) (n : Nat) (v : Word) (t : State) (s : State) : Out :=
  whenLive s fun s =>
    if modeAdmits m s.dev.dwio then finish (.read n v) t else finish (.read n (allOnes n)) s

/-- A write row of mode `m`: in its mode it leaves `t`; in the other mode the request is undecoded and has no effect
(R126, R173). -/
def writeMeaning (m : RowMode) (t : State) (s : State) : Out :=
  whenLive s fun s => if modeAdmits m s.dev.dwio then finish .written t else finish .written s

/-- A port request that matches no row in the current mode (R173): a read answers all ones of its width, a write has no
effect. -/
def undecodedRequest (w : Byte) (s : State) : Out := finish (undecodedAnswer w) s

/-- A request the decoder gives no instruction for: an undecoded port request is performed by R173, a reserved operation
word refuses the run (R131), and what is no request at all is refused by name. -/
def rejectedRequest (e : DecodeError) (s : State) : Out :=
  match e with
  | .undecoded w => undecodedRequest w s
  | .reservedOp => .next (refuse .reservedOp s)
  | .malformed => .refused .malformedRequest

/-- `APROM_RB` (R161). -/
def execApromRb (off : BitVec 4) (s : State) : Out :=
  readMeaning .any 1 ((apromByte s.cfg off).setWidth 32) s s

/-- `APROM_RW` (R162). -/
def execApromRw (off : BitVec 4) (s : State) : Out :=
  readMeaning .any 2 ((apromHalf s.cfg off).setWidth 32) s s

/-- `APROM_RD` (R163). -/
def execApromRd (off : BitVec 4) (s : State) : Out :=
  readMeaning .any 4 (apromWord s.cfg off) s s

/-- `RDP_RW` (R164). -/
def execRdpRw (s : State) : Out := readMeaning .wio 2 (readRdp s) s s

/-- `DWIO_ENTER` (R165). -/
def execDwioEnter (data : Word) (s : State) : Out := writeMeaning .wio (enterDwio data s) s

/-- `RDP_WW` (R166). -/
def execRdpWw (data : Half) (s : State) : Out := writeMeaning .wio (writeRdp data s) s

/-- `RAP_RW` (R167). -/
def execRapRw (s : State) : Out := readMeaning .wio 2 (readRap s) s s

/-- `RAP_WW` (R168). -/
def execRapWw (data : Half) (s : State) : Out := writeMeaning .wio (writeRap data s) s

/-- `RESET_RW` (R169): the value read is a draw of 16 bits. -/
def execResetRw (s : State) : Out :=
  readMeaning .wio 2 ((resetValue s).setWidth 16 |>.setWidth 32) (readReset s) s

/-- `BDP_RW` (R170). -/
def execBdpRw (s : State) : Out := readMeaning .wio 2 (readBdp s) s s

/-- `BDP_WW` (R171). -/
def execBdpWw (data : Half) (s : State) : Out := writeMeaning .wio (writeBdp data s) s

/-- `RDP_RD` (R174). -/
def execRdpRd (s : State) : Out := readMeaning .dwio 4 (readRdp s) s s

/-- `RDP_WD` (R175). -/
def execRdpWd (data : Word) (s : State) : Out := writeMeaning .dwio (writeRdp (registerData data) s) s

/-- `RAP_RD` (R176). -/
def execRapRd (s : State) : Out := readMeaning .dwio 4 (readRap s) s s

/-- `RAP_WD` (R177). -/
def execRapWd (data : Word) (s : State) : Out := writeMeaning .dwio (writeRap (registerData data) s) s

/-- `RESET_RD` (R178): the value read is a draw of 32 bits. -/
def execResetRd (s : State) : Out := readMeaning .dwio 4 (resetValue s) (readReset s) s

/-- `BDP_RD` (R179). -/
def execBdpRd (s : State) : Out := readMeaning .dwio 4 (readBdp s) s s

/-- `BDP_WD` (R180). -/
def execBdpWd (data : Word) (s : State) : Out := writeMeaning .dwio (writeBdp (registerData data) s) s

end Sys2Proof.Machine
end

