-- ==== Sys2Proof/Machine/Engine.lean ====
section
/-!
DEFINITION. Machine/Engine.lean: the device's DMA engine (45_dma_engine.md): the initialization-block fetch, the TX poll
and the RX fill. Each step is atomic (00_scope.md R11) and every access is checked first (R360).
-/

namespace Sys2Proof.Machine

/-- `csr0.MERR <- 1` (R360). -/
def setMerr (d : Dev) : Dev := { d with csr0 := { d.csr0 with merr := true } }

/-! ### Initialization-block fetch -/

/-- `IADR = csr2 : csr1` with bits 1:0 forced to 0 (R83, R362). -/
def iadr (d : Dev) : Nat := ((d.csr2 ++ d.csr1 : Word) &&& 0xFFFFFFFC).toNat

/-- `initFail()` (R363). -/
def initFail (d : Dev) : Dev :=
  { d with
    csr0 := { d.csr0 with merr := true, init := false }
    devState := .stopped
    pendingStart := false }

/-- What the fetch latches from the block at `a` (R89, R362), before a remembered STRT takes effect. DESIGN CHOICE (log
entry 27): the device's cursors go to 0 also when the host gave INIT on its own, so the agreement of the cursors that R378
derives then fails. Unsafe for a claim about the rings after such a request. -/
def latchInitBlock (m : Memory) (a : Nat) (d : Dev) : Dev :=
  { d with
    csr15 := read16 m a
    rlen := ringLength ((readByte m (a + 2)).extractLsb' 4 4)
    tlen := ringLength ((readByte m (a + 3)).extractLsb' 4 4)
    padr := addressOf (readByte m (a + 4)) (readByte m (a + 5)) (readByte m (a + 6)) (readByte m (a + 7))
      (readByte m (a + 8)) (readByte m (a + 9))
    ladrf := read64 m (a + 12)
    rdra := read32 m (a + 20) &&& 0xFFFFFFF0
    tdra := read32 m (a + 24) &&& 0xFFFFFFF0
    rxCurDev := 0
    txCurDev := 0
    csr0 := { d.csr0 with idon := true }
    devState := .inited }

/-- A STRT remembered while INIT_PENDING takes effect when the fetch completes (R35, R362). -/
def startIfPending (d : Dev) : Dev :=
  if d.pendingStart then devStart { d with pendingStart := false } else d

/-- `dev.init` (R361, R362), enabled in INIT_PENDING. -/
def devInit (s : State) : State :=
  if s.dev.swstyle ≠ 2 then refuse .unsupportedStyle s
  else
    let a := iadr s.dev
    if !dmaOk s.cfg a 28 then { s with dev := initFail s.dev }
    else if (read16 s.mem a).getLsbD 2 then refuse .loopback s
    else { s with dev := startIfPending (latchInitBlock s.mem a s.dev) }

/-! ### Transmit -/

/-- The device returns TX descriptor `i` at `d`, sets TINT and advances its cursor (R365). -/
def txReturn (i d : Nat) (st : Half) (s : State) : State :=
  let s := claimDesc .tx i d st s
  { s with
    dev := { s.dev with
      csr0 := { s.dev.csr0 with tint := true }
      txCurDev := (i + 1) % s.dev.tlen } }

/-- A frame goes out on the wire; BABL when it is longer than the limit (R365, R369). -/
def txSend (frame : List Byte) (s : State) : State :=
  { s with
    env := { s.env with txOut := s.env.txOut ++ [frame] }
    dev := { s.dev with
      csr0 := { s.dev.csr0 with babl := s.dev.csr0.babl || decide (frame.length > s.cfg.txBabbleLimit) } } }

/-- The outcome of one transmitted descriptor (R365, R367): the status word to return, and the state with the frame
sent or not. -/
def txOutcomeStep (o : TxOutcome) (frame : List Byte) (st : Half) (s : State) : Half × State :=
  match o with
  | .ok => (framing st, txSend frame s)
  | .uflo => (0x6000 ||| framing st, s)
  | .lcol => (0x5000 ||| framing st, s)

/-- `dev.tx` on a device-owned descriptor `i` at `d` (R365, R366, R368). -/
def txDescriptor (o : TxOutcome) (collision : Bool) (i d : Nat) (s : State) : State :=
  let st := read16 s.mem d
  let ba := (read32 s.mem (d + 4)).toNat
  match wholeFrame st, deviceLength (read16 s.mem (d + 2)) with
  | true, some n =>
    if !dmaOk s.cfg ba n then
      txReturn i d (0x4800 ||| framing st) { s with dev := setMerr s.dev }
    else
      let frame := readBytes s.mem ba n
      let s := { s with
        dev := { s.dev with csr0 := { s.dev.csr0 with cerr := s.dev.csr0.cerr || collision } } }
      let r := txOutcomeStep o frame st s
      txReturn i d r.1 r.2
  | _, _ => txReturn i d (0x4000 ||| framing st) s

/-- `dev.tx`, the TX poll (R365), enabled when RUNNING with TXON. -/
def devTx (o : TxOutcome) (collision : Bool) (s : State) : State :=
  let s := { s with dev := { s.dev with csr0 := { s.dev.csr0 with tdmd := false } } }
  let i := s.dev.txCurDev
  let d := s.dev.tdra.toNat + 16 * i
  if !dmaOk s.cfg d 16 then
    { s with dev := { s.dev with csr0 := { s.dev.csr0 with merr := true, txon := false } } }
  else if !deviceOwns s.mem d then s
  else txDescriptor o collision i d s

/-! ### Receive -/

/-- `accept(f)`, the address filter (R371). -/
def acceptFrame (d : Dev) (f : Frame) : Bool :=
  if d.csr15.getLsbD 15 then true
  else if f.bytes.length < 6 then false
  else
    let dst := f.bytes.take 6
    dst == addressBytes d.padr || dst == broadcastBytes ||
      ((dst.headD 0).getLsbD 0 && Config.ladrfMatch d.ladrf dst)

/-- `missed()` (R375): MISS, and the missed-frame count, which sets MFCO when it wraps to 0. -/
def missedFrame (d : Dev) : Dev :=
  { d with
    csr0 := { d.csr0 with miss := true }
    csr112 := d.csr112 + 1
    csr4 := { d.csr4 with mfco := d.csr4.mfco || (d.csr112 + 1 == 0) } }

/-- The device completes RX descriptor `i` at `d` with `n` bytes stored and status `st` (R372): `byteCount`, then the
status word with OWN clear, RINT and the cursor. DESIGN CHOICE (log entry 25): R252 says that its fault cannot arise from
the device; a buffer that overlaps the status word of its own descriptor can clear OWN before the claim reads it (R370), and
the model then records DoubleClaim, as the pseudocode of R252 does. Unsafe for a claim about such a buffer. -/
def rxComplete (i d n : Nat) (st : Half) (s : State) : State :=
  let s := { s with mem := write16 s.mem (d + 2) (neg16 n) }
  let s := claimDesc .rx i d st s
  { s with
    dev := { s.dev with
      csr0 := { s.dev.csr0 with rint := true }
      rxCurDev := (i + 1) % s.dev.rlen } }

/-- `dev.rx` into a device-owned descriptor `i` at `d` (R370, R373, R374). -/
def rxFill (f : Frame) (i d : Nat) (s : State) : State :=
  let cap := (deviceLength (read16 s.mem (d + 2))).getD 0
  let ba := (read32 s.mem (d + 4)).toNat
  let n := min f.bytes.length cap
  if decide (n > 0) && !dmaOk s.cfg ba n then { s with dev := setMerr s.dev }
  else
    rxComplete i d n (rxStatus (decide (f.bytes.length > cap)) f.framErr f.ofloErr f.crcErr)
      { s with mem := writeBytes s.mem ba (f.bytes.take n) }

/-- `dev.rx` on the frame `f`, already taken from `rxIn` (R370): discarded unless RUNNING with RXON and accepted. -/
def rxFrame (f : Frame) (s : State) : State :=
  if !(s.dev.devState == .running && s.dev.csr0.rxon) then s
  else if !acceptFrame s.dev f then s
  else
    let i := s.dev.rxCurDev
    let d := s.dev.rdra.toNat + 16 * i
    if !dmaOk s.cfg d 16 then
      { s with dev := { s.dev with csr0 := { s.dev.csr0 with merr := true, rxon := false } } }
    else if !deviceOwns s.mem d then { s with dev := missedFrame s.dev }
    else rxFill f i d s

/-- `dev.rx` (R370), enabled when `rxIn` is not empty. -/
def devRx (s : State) : State :=
  match s.env.rxIn with
  | [] => s
  | f :: fs => rxFrame f { s with env := { s.env with rxIn := fs } }

/-! ### The freed region (R94, R463) -/

/-- The bytes `r.2` from `r.1` on meet the region that `RELEASE` gave back (R322). -/
def meetsFreed (s : State) (r : Nat × Nat) : Bool :=
  match s.ctl.freed with
  | none => false
  | some g => decide (r.1 < g.base + g.size) && decide (g.base < r.1 + r.2)

/-- A buffer access of `n` bytes at `ba`: none when it has no byte or fails its check (R360). -/
def bufferReach (p : Params) (ba n : Nat) : List (Nat × Nat) :=
  if decide (n > 0) && dmaOk p ba n then [(ba, n)] else []

/-- The bytes `dev.init` reads (R361, R362): the block, where its style and its address pass. -/
def initReach (s : State) : List (Nat × Nat) :=
  if s.dev.devState = .initPending ∧ s.dev.swstyle = 2 ∧ dmaOk s.cfg (iadr s.dev) 28 then [(iadr s.dev, 28)] else []

/-- The bytes `dev.tx` reads or writes (R364, R365): the descriptor at the cursor, and the buffer of one it owns. -/
def txReach (s : State) : List (Nat × Nat) :=
  let d := s.dev.tdra.toNat + 16 * s.dev.txCurDev
  if s.dev.devState = .running ∧ s.dev.csr0.txon ∧ dmaOk s.cfg d 16 then
    (d, 16) ::
      if deviceOwns s.mem d then
        match wholeFrame (read16 s.mem d), deviceLength (read16 s.mem (d + 2)) with
        | true, some n => bufferReach s.cfg (read32 s.mem (d + 4)).toNat n
        | _, _ => []
      else []
  else []

/-- The bytes `dev.rx` reads or writes (R364, R370): none for a frame it discards. -/
def rxReach (s : State) : List (Nat × Nat) :=
  match s.env.rxIn with
  | [] => []
  | f :: _ =>
    let d := s.dev.rdra.toNat + 16 * s.dev.rxCurDev
    if s.dev.devState = .running ∧ s.dev.csr0.rxon ∧ acceptFrame s.dev f ∧ dmaOk s.cfg d 16 then
      (d, 16) ::
        if deviceOwns s.mem d then
          bufferReach s.cfg (read32 s.mem (d + 4)).toNat
            (min f.bytes.length ((deviceLength (read16 s.mem (d + 2))).getD 0))
        else []
    else []

/-- The bytes of memory an agent step accesses. -/
def devReach (a : AgentStep) (s : State) : List (Nat × Nat) :=
  match a with
  | .init => initReach s
  | .tx _ _ => txReach s
  | .rx => rxReach s
  | .frame _ => []
  | .platform _ => []

/-- The step would access the freed region: "cannot occur in a run of this model" (R463, R94). DESIGN CHOICE (log entry
23): the model has no such step, though R134, R205 and R362 would enable it once the host has given INIT again. Unsafe for
a claim about hardware whose host does that. -/
def barred (a : AgentStep) (s : State) : Bool := (devReach a s).any (meetsFreed s)

end Sys2Proof.Machine
end

