-- ==== Sys2Proof/Machine/Schedule.lean ====
section
/-!
DEFINITION. Machine/Schedule.lean: whose turn it is (00_scope.md R5, R11; 30_encoding.md R134; 44_driver_core.md R323).
The order in which the agents step is free (45_dma_engine.md R376, R467): it is an input, held in `agenda` and
`interleave`, and every order is some value of the two.
-/

namespace Sys2Proof.Machine

/-- A step of `DEV` or `ENV` where it is enabled (R134); a step that is not does not occur. A frame has at least one byte
(R46). -/
def takeStep (a : AgentStep) (s : State) : State :=
  match a with
  | .init => if s.dev.devState = .initPending then devInit s else s
  | .tx o c => if s.dev.devState = .running ∧ s.dev.csr0.txon then devTx o c s else s
  | .rx => devRx s
  | .frame f =>
    if f.bytes = [] then s else { s with env := { s.env with rxIn := s.env.rxIn ++ [f] } }
  | .platform p => { s with env := { s.env with platform := p } }

/-- One step of `DEV` or `ENV` (R134). No agent steps once the run is refused (R417), and a step that would access a freed
region does not occur (R94, R463). -/
def agentStep (a : AgentStep) (s : State) : State :=
  match s.refusal with
  | some _ => s
  | none => if barred a s then s else takeStep a s

/-- Agent steps in order. -/
def agentSteps (as : List AgentStep) (s : State) : State :=
  match as with
  | [] => s
  | a :: as => agentSteps as (agentStep a s)

/-- One move between two steps of a controller operation: another agent's step, or a port request of the host (R326). A
refused run takes none (R417). -/
def move (m : Move) (s : State) : State :=
  match s.refusal with
  | some _ => s
  | none =>
    match m with
    | .agent a => agentStep a s
    | .port w data => hostPort w data s

/-- Moves in order. -/
def moves (ms : List Move) (s : State) : State :=
  match ms with
  | [] => s
  | m :: ms => moves ms (move m s)

/-- The moves at one boundary inside a controller operation (R11, R172, R323, R326). -/
def otherAgents (s : State) : State :=
  match s.interleave with
  | [] => s
  | ms :: rest => moves ms { s with interleave := rest }

/-- A boundary between two steps of a controller operation: other agents step and the host may issue port requests, and
the operation goes on unless the run was refused meanwhile (R417). -/
def boundary (s : State) (k : State → Out) : Out :=
  let s := otherAgents s
  match s.refusal with
  | some _ => .next s
  | none => k s

/-- The next event of the run and the state without it; none when nothing more is scheduled. -/
def nextEvent (s : State) : Option (Event × State) :=
  match s.agenda with
  | [] => none
  | e :: rest => some (e, { s with agenda := rest })

end Sys2Proof.Machine
end

