-- ==== Sys2Proof/Machine/Access.lean ====
section
/-!
DEFINITION. Machine/Access.lean: the RegisterAccess contract and the width probe of the controller
(40_register_access.md section 5). Each port request is one step of the operation, and other agents may step after it
(R172), so each is written with what the operation does next.
-/

namespace Sys2Proof.Machine

/-- The `SZ` code of a byte access (R121). -/
def szByte : BitVec 2 := 0

/-- The `SZ` code of a word access (R121). -/
def szWord : BitVec 2 := 1

/-- The `SZ` code of a dword access (R121). -/
def szDword : BitVec 2 := 2

/-- A port read of an operation, then the boundary after it. -/
def ctlRead (sz : BitVec 2) (off : BitVec 5) (s : State) (k : Word → State → Out) : Out :=
  let r := portRead sz off s
  boundary r.2 (k r.1)

/-- A port write of an operation, then the boundary after it. -/
def ctlWrite (sz : BitVec 2) (off : BitVec 5) (v : Word) (s : State) (k : State → Out) : Out :=
  boundary (portWrite sz off v s) k

/-- `getCSR(n)` (R181). -/
def getCsr (m : AccessMode) (n : Word) (s : State) (k : Word → State → Out) : Out :=
  match m with
  | .word => ctlWrite szWord 0x12 n s fun s => ctlRead szWord 0x10 s k
  | .dword => ctlWrite szDword 0x14 n s fun s => ctlRead szDword 0x10 s k

/-- `setCSR(n, v)` (R182): only `v[15:0]` is written. -/
def setCsr (m : AccessMode) (n v : Word) (s : State) (k : State → Out) : Out :=
  match m with
  | .word => ctlWrite szWord 0x12 n s fun s => ctlWrite szWord 0x10 v s k
  | .dword =>
    ctlWrite szDword 0x14 n s fun s => ctlWrite szDword 0x10 ((registerData v).setWidth 32) s k

/-- `getBCR(n)` (R183). -/
def getBcr (m : AccessMode) (n : Word) (s : State) (k : Word → State → Out) : Out :=
  match m with
  | .word => ctlWrite szWord 0x12 n s fun s => ctlRead szWord 0x16 s k
  | .dword => ctlWrite szDword 0x14 n s fun s => ctlRead szDword 0x1C s k

/-- `setBCR(n, v)` (R184): only `v[15:0]` is written. -/
def setBcr (m : AccessMode) (n v : Word) (s : State) (k : State → Out) : Out :=
  match m with
  | .word => ctlWrite szWord 0x12 n s fun s => ctlWrite szWord 0x16 v s k
  | .dword =>
    ctlWrite szDword 0x14 n s fun s => ctlWrite szDword 0x1C ((registerData v).setWidth 32) s k

/-- `reset()` (R185): a read of the RESET port; the value is discarded. -/
def resetDevice (m : AccessMode) (s : State) (k : State → Out) : Out :=
  match m with
  | .word => ctlRead szWord 0x14 s fun _ s => k s
  | .dword => ctlRead szDword 0x18 s fun _ s => k s

/-! ### The width probe -/

/-- A port read of the probe: a window with no device answers all ones (R188). -/
def probeRead (sz : BitVec 2) (off : BitVec 5) (s : State) (k : Word → State → Out) : Out :=
  if s.env.platform.deviceAnswers then ctlRead sz off s k
  else boundary s (k (allOnes (sizeBytes sz)))

/-- A port write of the probe: without effect in a window with no device (R188). -/
def probeWrite (sz : BitVec 2) (off : BitVec 5) (v : Word) (s : State) (k : State → Out) : Out :=
  if s.env.platform.deviceAnswers then ctlWrite sz off v s k else boundary s k

/-- `probeWidth()` (R187). -/
def probeWidth (s : State) (k : Option AccessMode → State → Out) : Out :=
  let value : Word := s.cfg.probeValue.setWidth 32
  probeRead szWord 0x14 s fun _ s =>
  probeWrite szWord 0x12 value s fun s =>
  probeRead szWord 0x12 s fun v s =>
  if v = value then k (some .word) s
  else
    probeRead szDword 0x18 s fun _ s =>
    probeWrite szDword 0x14 value s fun s =>
    probeRead szDword 0x14 s fun v s =>
    if registerData v = s.cfg.probeValue then k (some .dword) s else k none s

/-- The byte reads of the station address (R311): APROM bytes at the offsets listed. -/
def readStation (offs : List (BitVec 5)) (acc : List Byte) (s : State) (k : List Byte → State → Out) : Out :=
  match offs with
  | [] => k acc s
  | off :: offs => ctlRead szByte off s fun v s => readStation offs (acc ++ [v.extractLsb' 0 8]) s k

/-! ### Pseudo-instructions -/

/-- The pseudo-instructions of R133. -/
inductive Pseudo where
  | csrr (n : Word)
  | csrw (n v : Word)
  | bcrr (n : Word)
  | bcrw (n v : Word)
  | rareset
deriving DecidableEq, Repr

/-- The port requests a pseudo-instruction expands to in each access mode (R133). -/
def expandPseudo (m : AccessMode) (p : Pseudo) : List Request :=
  match m, p with
  | .word, .csrr n => [encode (.rapWw (registerData n)), encode .rdpRw]
  | .word, .csrw n v => [encode (.rapWw (registerData n)), encode (.rdpWw (registerData v))]
  | .word, .bcrr n => [encode (.rapWw (registerData n)), encode .bdpRw]
  | .word, .bcrw n v => [encode (.rapWw (registerData n)), encode (.bdpWw (registerData v))]
  | .word, .rareset => [encode .resetRw]
  | .dword, .csrr n => [encode (.rapWd n), encode .rdpRd]
  | .dword, .csrw n v => [encode (.rapWd n), encode (.rdpWd ((registerData v).setWidth 32))]
  | .dword, .bcrr n => [encode (.rapWd n), encode .bdpRd]
  | .dword, .bcrw n v => [encode (.rapWd n), encode (.bdpWd ((registerData v).setWidth 32))]
  | .dword, .rareset => [encode .resetRd]

end Sys2Proof.Machine
end

