-- ==== Sys2Proof/Machine/Rings.lean ====
section
/-!
DEFINITION. Machine/Rings.lean: the controller's side of the descriptor rings (42_descriptor_ring.md) and the buffer manager
(43_buffer_manager.md): slot set-up, RX take, TX post, the RX drain, and the construction of the region.
-/

namespace Sys2Proof.Machine

/-! ### Slot set-up -/

/-- `rxArm(i)` (R255): the fields, then the status word with OWN set, last. -/
def rxArm (base i : Nat) (s : State) : State :=
  let d := rxDescAddr base i
  let s := ctlStore .rx i d (d + 4) (wordBytes (BitVec.ofNat 32 (rxBufAddr s.cfg base i))) s
  let s := ctlStore .rx i d (d + 8) (wordBytes 0) s
  let s := ctlStore .rx i d (d + 12) (wordBytes 0) s
  let s := ctlStore .rx i d (d + 2) (halfBytes (neg16 s.cfg.bufferSize)) s
  releaseDesc .rx i d 0x8000 s

/-- `txInit(i)` (R259): software-owned and empty. -/
def txInit (base i : Nat) (s : State) : State :=
  let d := txDescAddr s.cfg base i
  let s := ctlStore .tx i d (d + 4) (wordBytes (BitVec.ofNat 32 (txBufAddr s.cfg base i))) s
  let s := ctlStore .tx i d (d + 8) (wordBytes 0) s
  let s := ctlStore .tx i d (d + 12) (wordBytes 0) s
  let s := ctlStore .tx i d (d + 2) (halfBytes 0) s
  ctlStore .tx i d d (halfBytes 0) s

/-- `for i in first .. first + n - 1: f(i)`, each one step of the operation (R311, R314). -/
def forSlots (f : Nat → State → State) (first n : Nat) (s : State) (k : State → Out) : Out :=
  match n with
  | 0 => k s
  | n + 1 => boundary (f first s) fun s => forSlots f (first + 1) n s k

/-- Both rings set up and the software cursors at 0, the part that construction and `INITIALIZE` share (R290, R314). DESIGN
CHOICE (log entry 24): R253, R259 and R416 say that no operation touches a device-owned descriptor of a device that is not
STOPPED; R326 lets the host give INIT between two of these steps, and the model then records the violations that R251 and
R253 name. Unsafe for a claim about such runs if the spec means that there are none. -/
def setUpRings (base : Nat) (s : State) (k : State → Out) : Out :=
  forSlots (rxArm base) 0 (rxLen s.cfg) s fun s =>
  forSlots (txInit base) 0 (txLen s.cfg) s fun s =>
  k { s with ctl := { s.ctl with rxCur := 0, txCur := 0 } }

/-- The 32 bytes of the initialization block and its padding (R89, R291). -/
def initBlockBytes (p : Params) (base : Nat) (mac : BitVec 48) : List Byte :=
  halfBytes p.initMode ++ [BitVec.ofNat 8 p.rxLog2 <<< 4, BitVec.ofNat 8 p.txLog2 <<< 4] ++ addressBytes mac ++
    halfBytes 0 ++ doubleBytes 0 ++ wordBytes (BitVec.ofNat 32 (base + rxRingOff)) ++
    wordBytes (BitVec.ofNat 32 (base + txRingOff p)) ++ wordBytes 0

/-- `writeInitBlock()` (R291). -/
def writeInitBlock (base : Nat) (mac : BitVec 48) (s : State) : State :=
  { s with mem := writeBytes s.mem base (initBlockBytes s.cfg base mac) }

/-- `construct(base)` (R290). -/
def construct (base : Nat) (mac : BitVec 48) (s : State) (k : State → Out) : Out :=
  boundary (writeInitBlock base mac s) fun s => setUpRings base s k

/-! ### RX take -/

/-- What `RECEIVE` returns (R256). -/
inductive RxTake where
  | packet (payload : List Byte)
  | dropped
  | empty
  | badState
deriving DecidableEq, Repr

/-- A counter goes up by one when its condition holds, modulo 2^32 (R44). -/
def countIf (c : Bool) (n : Word) : Word := if c then n + 1 else n

/-- `classifyRxError(st)` (R257). -/
def classifyRxError (st : Half) (c : Counters) : Counters :=
  { c with
    rxFram := countIf (st.getLsbD 13) c.rxFram
    rxOflo := countIf (st.getLsbD 12) c.rxOflo
    rxCrc := countIf (st.getLsbD 11) c.rxCrc
    rxBuff := countIf (st.getLsbD 10) c.rxBuff
    rxErrOther := countIf (st.extractLsb' 10 4 == 0) c.rxErrOther
    rxDropped := c.rxDropped + 1 }

/-- What `RECEIVE` makes of a software-owned descriptor with status `st` and byte count `bc` whose buffer starts at `buf`:
the result and the counters (R256). -/
def takeSlot (p : Params) (m : Memory) (buf : Nat) (st bc : Half) (c : Counters) : RxTake × Counters :=
  if st.getLsbD 14 then (.dropped, classifyRxError st c)
  else if wholeFrame st then
    if 1 ≤ dec16 bc ∧ dec16 bc ≤ p.bufferSize then
      (.packet (readBytes m buf (dec16 bc).toNat), { c with rxDelivered := c.rxDelivered + 1 })
    else (.dropped, { c with rxBuff := c.rxBuff + 1, rxDropped := c.rxDropped + 1 })
  else (.dropped, { c with rxUnsupported := c.rxUnsupported + 1, rxDropped := c.rxDropped + 1 })

/-- `RECEIVE` is legal in these states (R310). -/
def receives : Lifecycle → Bool
  | .initializing => true
  | .running => true
  | .disabled => true
  | .unattached => false
  | .attached => false
  | .released => false

/-- `RECEIVE` once the state is legal and the region known (R256): one atomic step. -/
def takeNext (base : Nat) (s : State) : RxTake × State :=
  let i := s.ctl.rxCur
  let d := rxDescAddr base i
  let st := read16 s.mem d
  if ownBit st then (.empty, s)
  else
    let r := takeSlot s.cfg s.mem (rxBufAddr s.cfg base i) st (read16 s.mem (d + 2)) s.ctl.counters
    let s := rxArm base i { s with ctl := { s.ctl with counters := r.2 } }
    (r.1, { s with ctl := { s.ctl with rxCur := (i + 1) % rxLen s.cfg } })

/-- `RECEIVE()` (R256). -/
def receiveStep (s : State) (k : RxTake → State → Out) : Out :=
  if receives s.ctl.lc then
    withRegion s fun base =>
      let r := takeNext base s
      k r.1 r.2
  else k .badState s

/-- `onReceive(p)` (R325). -/
def onReceive (p : List Byte) (s : State) : State :=
  { s with env := { s.env with stackIn := s.env.stackIn ++ [p] } }

/-- `drainRx()` (R262), for at most `fuel` takes. -/
def drainLoop (fuel : Nat) (s : State) (k : State → Out) : Out :=
  match fuel with
  | 0 => k s
  | fuel + 1 =>
    receiveStep s fun r s =>
      match r with
      | .packet p => boundary (onReceive p s) fun s => drainLoop fuel s k
      | .dropped => boundary s fun s => drainLoop fuel s k
      | .empty => k s
      | .badState => k s

/-- More takes than the drain can make: between two moves of others at most `RX_LEN + 1` takes find a
software-owned descriptor, each of which re-arms its slot (R263), and only the moves of `interleave` come
between. -/
def drainBound (s : State) : Nat :=
  (s.interleave.flatten.length + 1) * (rxLen s.cfg + 1) + 1

/-- `drainRx()` (R262). -/
def drainRx (s : State) (k : State → Out) : Out := drainLoop (drainBound s) s k

/-! ### TX post -/

/-- `txPost(p)` (R258), one atomic step: `true` is `Ok`, `false` is `Err(NotOwned)`. -/
def txPost (base : Nat) (payload : List Byte) (s : State) : Bool × State :=
  let i := s.ctl.txCur
  let d := txDescAddr s.cfg base i
  let buf := txBufAddr s.cfg base i
  if deviceOwns s.mem d then
    (false, { s with ctl := { s.ctl with counters := { s.ctl.counters with txFull := s.ctl.counters.txFull + 1 } } })
  else
    let s := ctlStore .tx i d buf payload s
    let s := ctlStore .tx i d (d + 4) (wordBytes (BitVec.ofNat 32 buf)) s
    let s := ctlStore .tx i d (d + 8) (wordBytes 0) s
    let s := ctlStore .tx i d (d + 12) (wordBytes 0) s
    let s := ctlStore .tx i d (d + 2) (halfBytes (neg16 payload.length)) s
    let s := releaseDesc .tx i d 0x8300 s
    (true, { s with
      ctl := { s.ctl with
        counters := { s.ctl.counters with txPosted := s.ctl.counters.txPosted + 1 }
        txCur := (i + 1) % txLen s.cfg } })

end Sys2Proof.Machine
end

