-- ==== Sys2Proof/Machine/Driver.lean ====
section
/-!
DEFINITION. Machine/Driver.lean: the operations of the ring controller (44_driver_core.md; 42_descriptor_ring.md R256). Each
is a sequence of steps: at a `boundary` other agents may step (00_scope.md R11, 44_driver_core.md R323).
-/

namespace Sys2Proof.Machine

/-! ### Lifecycle (R310) -/

/-- `INITIALIZE` is legal in these states. -/
def initializes : Lifecycle → Bool
  | .attached => true
  | .disabled => true
  | .unattached => false
  | .initializing => false
  | .running => false
  | .released => false

/-- `TRANSMIT` is legal in these states. -/
def transmits : Lifecycle → Bool
  | .initializing => true
  | .running => true
  | .unattached => false
  | .attached => false
  | .disabled => false
  | .released => false

/-- `DISABLE` stops the device in these states; in the others it has no effect. -/
def disables : Lifecycle → Bool
  | .attached => true
  | .initializing => true
  | .running => true
  | .unattached => false
  | .disabled => false
  | .released => false

/-- `RELEASE` has an effect in these states. -/
def releases : Lifecycle → Bool
  | .attached => true
  | .initializing => true
  | .running => true
  | .disabled => true
  | .unattached => false
  | .released => false

/-- `lc <- l`. -/
def setLc (l : Lifecycle) (s : State) : State := { s with ctl := { s.ctl with lc := l } }

/-! ### Attach -/

/-- The claims rolled back, in reverse order (R311). -/
def dropClaims (s : State) : State :=
  { s with ctl := { s.ctl with ioClaimed := false, irqRegistered := false } }

/-- `irqRegistered <- true` (R311). -/
def registerIrq (s : State) : State := { s with ctl := { s.ctl with irqRegistered := true } }

/-- `ioClaimed <- true` (R311). -/
def claimIo (s : State) : State := { s with ctl := { s.ctl with ioClaimed := true } }

/-- The station address from its six octets, octet `k` in bits `8k+7 : 8k` (R311, R91). -/
def macOf (bs : List Byte) : BitVec 48 :=
  addressOf (bs.getD 0 0) (bs.getD 1 0) (bs.getD 2 0) (bs.getD 3 0) (bs.getD 4 0) (bs.getD 5 0)

/-- The rest of `ATTACH` once the platform has returned the region at `base` (R311, R312). -/
def attachRegion (base : Nat) (mac : BitVec 48) (s : State) : Out :=
  if regionOk s.cfg base then
    boundary
      { s with
        ctl := { s.ctl with region := some ⟨base, regionSize s.cfg⟩, counters := Counters.zero } }
      fun s => construct base mac s fun s => finish .ok (setLc .attached s)
  else .next (refuse .badRegion s)

/-- The rest of `ATTACH` once the probe has selected the access mode (R311). -/
def attachStation (m : AccessMode) (s : State) : Out :=
  readStation [0, 1, 2, 3, 4, 5] [] { s with ctl := { s.ctl with accessMode := some m } } fun bs s =>
    let s := { s with ctl := { s.ctl with mac := some (macOf bs) } }
    match s.env.platform.alloc with
    | none => finish (.attachError .noMemory) (dropClaims s)
    | some base => attachRegion base (macOf bs) s

/-- `ATTACH` (R311) in state UNATTACHED: the claims, the probe, the station address, the region. -/
def attachSteps (s : State) : Out :=
  if !s.env.platform.ioBaseKnown then finish (.attachError .noBaseAddress) s
  else boundary s fun s =>
  if !s.env.platform.irqAvailable then finish (.attachError .irqUnavailable) s
  else boundary (registerIrq s) fun s =>
  if !s.env.platform.ioAvailable then finish (.attachError .ioUnavailable) (dropClaims s)
  else boundary (claimIo s) fun s =>
  probeWidth s fun m s =>
  match m with
  | none => finish (.attachError .notRecognized) (dropClaims s)
  | some m => attachStation m s

/-- `ATTACH` (R311). -/
def execAttach (s : State) : Out :=
  whenLive s fun s =>
    if s.ctl.lc = .unattached then attachSteps s else finish .badState s

/-! ### Initialize -/

/-- `INITIALIZE` (R314) in a legal state, in access mode `m`, with the region at `base`. -/
def initializeSteps (m : AccessMode) (base : Nat) (s : State) : Out :=
  resetDevice m s fun s =>
  setUpRings base s fun s =>
  setBcr m 20 0x0002 s fun s =>
  setCsr m 1 ((initBlockAddr base).extractLsb' 0 16 |>.setWidth 32) s fun s =>
  setCsr m 2 ((initBlockAddr base).extractLsb' 16 16 |>.setWidth 32) s fun s =>
  setCsr m 0 0x0041 s fun s =>
  finish .ok (setLc .initializing s)

/-- `INITIALIZE` (R314). -/
def execInitialize (s : State) : Out :=
  whenLive s fun s =>
    if initializes s.ctl.lc then
      withAccessMode s fun m => withRegion s fun base => initializeSteps m base s
    else finish .badState s

/-! ### Interrupt service -/

/-- The error flags of the two status words counted (R315). -/
def countEvents (v0 v4 : Word) (s : State) : State :=
  { s with
    ctl := { s.ctl with
      counters := { s.ctl.counters with
        cntBabl := countIf (v0.getLsbD 14) s.ctl.counters.cntBabl
        cntCerr := countIf (v0.getLsbD 13) s.ctl.counters.cntCerr
        cntMiss := countIf (v0.getLsbD 12) s.ctl.counters.cntMiss
        cntMerr := countIf (v0.getLsbD 11) s.ctl.counters.cntMerr
        cntMfco := countIf (v4.getLsbD 9) s.ctl.counters.cntMfco } } }

/-- START on IDON (R315): only while `lc` is INITIALIZING. DESIGN CHOICE (log entry 28): also after a failed fetch (R363),
where R464 has `lc` never reach RUNNING, if the host then gives INIT by requests of its own (R326, R205) and the fetch
succeeds. Unsafe for a claim that R464 holds in such a run. -/
def serviceIdon (m : AccessMode) (v0 : Word) (s : State) (k : State → Out) : Out :=
  if v0.getLsbD 8 ∧ s.ctl.lc = .initializing then setCsr m 0 0x0042 s fun s => k (setLc .running s)
  else k s

/-- The drain on RINT (R315). -/
def serviceRint (v0 : Word) (s : State) (k : State → Out) : Out :=
  if v0.getLsbD 10 then drainRx s k else k s

/-- The interrupt handler (R315) in access mode `m`. -/
def isrSteps (m : AccessMode) (s : State) : Out :=
  getCsr m 0 s fun v0 s =>
  setCsr m 0 v0 s fun s =>
  getCsr m 4 s fun v4 s =>
  setCsr m 4 v4 s fun s =>
  serviceIdon m v0 s fun s =>
  serviceRint v0 s fun s =>
  finish .serviced (countEvents v0 v4 s)

/-- `ISR` (R315): dispatched only while a handler is registered (R310, R316); otherwise it is not invoked. -/
def execIsr (s : State) : Out :=
  whenLive s fun s =>
    if s.ctl.irqRegistered then withAccessMode s fun m => isrSteps m s
    else finish .notInvoked s

/-! ### Transmit and receive -/

/-- `TRANSMIT(p)` (R320): state before length before ownership (R420); the doorbell follows a post. -/
def execTransmit (payload : List Byte) (s : State) : Out :=
  whenLive s fun s =>
    if transmits s.ctl.lc then
      if 1 ≤ payload.length ∧ payload.length ≤ s.cfg.bufferSize then
        withAccessMode s fun m => withRegion s fun base =>
          let r := txPost base payload s
          if r.1 then boundary r.2 fun s => setCsr m 0 0x0048 s fun s => finish .ok s
          else finish (.txError .notOwned) r.2
      else
        finish (.txError .badLength)
          { s with
            ctl := { s.ctl with
              counters := { s.ctl.counters with txBadLength := s.ctl.counters.txBadLength + 1 } } }
    else finish (.txError .badState) s

/-- The result of a `RECEIVE` the host asked for (R256). -/
def takeResult : RxTake → Result
  | .packet p => .packet p
  | .dropped => .dropped
  | .empty => .empty
  | .badState => .badState

/-- `RECEIVE` (R256). -/
def execReceive (s : State) : Out :=
  whenLive s fun s => receiveStep s fun r s => finish (takeResult r) s

/-! ### Disable and release -/

/-- `DISABLE()` (R321): STOP and DISABLED where the state asks for it. -/
def disableSteps (s : State) (k : State → Out) : Out :=
  if disables s.ctl.lc then
    withAccessMode s fun m => setCsr m 0 0x0004 s fun s => k (setLc .disabled s)
  else k s

/-- `DISABLE` (R321). -/
def execDisable (s : State) : Out :=
  whenLive s fun s => disableSteps s fun s => finish .ok s

/-- The resources given back (R322): the IRQ deregistered, the region freed, the ports unclaimed. The freed region is
remembered, for no step of the device reaches it from now on, whatever the host does (R94, R463; log entry 23). -/
def giveBack (s : State) : State :=
  { s with
    ctl := { s.ctl with
      irqRegistered := false, freed := s.ctl.region, region := none, ioClaimed := false, lc := .released } }

/-- `RELEASE` (R322): it disables first unless already DISABLED. Log entry 23: R322 frees the region without a look at the
device, so a device that the host started again by a port request of its own may still be going then; its steps that
would reach the region do not occur (`barred`). -/
def execRelease (s : State) : Out :=
  whenLive s fun s =>
    if releases s.ctl.lc then disableSteps s fun s => finish .ok (giveBack s)
    else finish .ok s

/-! ### Numeric codes (R418) -/

/-- The code of an attach error. -/
def attachErrorCode : AttachError → Nat
  | .noBaseAddress => 1
  | .irqUnavailable => 2
  | .ioUnavailable => 3
  | .notRecognized => 4
  | .noMemory => 5

/-- The code of a transmit error. -/
def txErrorCode : TxError → Nat
  | .notOwned => 1
  | .badLength => 2
  | .badState => 3

/-- The code of an operation's result; a result that is no error type of R418 has none. -/
def resultCode : Result → Option Nat
  | .none => none
  | .read _ _ => none
  | .written => none
  | .ok => some 0
  | .attachError e => some (attachErrorCode e)
  | .txError e => some (txErrorCode e)
  | .badState => some 3
  | .packet _ => none
  | .dropped => none
  | .empty => none
  | .serviced => none
  | .notInvoked => none

end Sys2Proof.Machine
end

