-- ==== Sys2Proof/Machine/Dispatch.lean ====
section
/-! DEFINITION. Machine/Dispatch.lean: exec, one arm for each constructor of Instr, each one call of its meaning. -/

namespace Sys2Proof.Machine

def exec (i : Instr) (s : State) : Host.Outcome State Fault Refusal :=
  match i with
  -- port requests (40_register_access.md)
  | .apromRb off => Sys2Proof.Machine.execApromRb off s
  | .apromRw off => Sys2Proof.Machine.execApromRw off s
  | .apromRd off => Sys2Proof.Machine.execApromRd off s
  | .rdpRw => Sys2Proof.Machine.execRdpRw s
  | .dwioEnter data => Sys2Proof.Machine.execDwioEnter data s
  | .rdpWw data => Sys2Proof.Machine.execRdpWw data s
  | .rapRw => Sys2Proof.Machine.execRapRw s
  | .rapWw data => Sys2Proof.Machine.execRapWw data s
  | .resetRw => Sys2Proof.Machine.execResetRw s
  | .bdpRw => Sys2Proof.Machine.execBdpRw s
  | .bdpWw data => Sys2Proof.Machine.execBdpWw data s
  | .rdpRd => Sys2Proof.Machine.execRdpRd s
  | .rdpWd data => Sys2Proof.Machine.execRdpWd data s
  | .rapRd => Sys2Proof.Machine.execRapRd s
  | .rapWd data => Sys2Proof.Machine.execRapWd data s
  | .resetRd => Sys2Proof.Machine.execResetRd s
  | .bdpRd => Sys2Proof.Machine.execBdpRd s
  | .bdpWd data => Sys2Proof.Machine.execBdpWd data s
  -- controller operations (44_driver_core.md, 42_descriptor_ring.md)
  | .attach => Sys2Proof.Machine.execAttach s
  | .initializeOp => Sys2Proof.Machine.execInitialize s
  | .isr => Sys2Proof.Machine.execIsr s
  | .transmit payload => Sys2Proof.Machine.execTransmit payload s
  | .receive => Sys2Proof.Machine.execReceive s
  | .disable => Sys2Proof.Machine.execDisable s
  | .release => Sys2Proof.Machine.execRelease s

end Sys2Proof.Machine
end

