-- ==== Sys2Proof/Machine/Step.lean ====
section
/-!
DEFINITION. Machine/Step.lean: one step of the machine: the next event of the schedule, a request or another agent's step
(00_scope.md R5, 30_encoding.md R134), and the host's way to place a request there.
-/

namespace Sys2Proof.Machine

/-- A request performed in the state without it: decoded against `dwio` at this moment (R160), then executed. -/
def runRequest (r : Request) (s : State) : Host.Outcome State Fault Refusal :=
  match decodeRequest s.dev.dwio r with
  | .ok i => exec i s
  | .error e => rejectedRequest e s

/-- One step: no agent steps in a refused run (R417); with nothing scheduled the machine idles. -/
def step (s : State) : Host.Outcome State Fault Refusal :=
  whenLive s fun s =>
    match nextEvent s with
    | none => .next s
    | some (.agent a, s) => .next (agentStep a s)
    | some (.request r, s) => runRequest r s

/-- The host's instruction placed where the next step takes it: the first event of the schedule, and the decoder in a mode
that has its row (log entries 4 and 5). -/
def State.withFetchWord (s : State) (nbits w : Nat) : State :=
  match tableReading nbits w with
  | none => { s with agenda := .request (tableRequest .op nbits w) :: s.agenda }
  | some (r, i) =>
    { s with
      agenda := .request r :: s.agenda
      dev := { s.dev with dwio := modeFor i s.dev.dwio } }

end Sys2Proof.Machine
end

