-- ==== Sys2Proof/Safety.lean ====
section
/-!
DEFINITION. Safety.lean: the terms the statements use: when an operation runs undisturbed, the rows of the port map, what a
slot set up by the controller holds, the invariant of the machine, and runs of RegisterAccess calls.
-/

namespace Sys2Proof.Machine

/-! ### When an operation runs -/

/-- The run is not marked refused (R417), and no other agent steps and no port request of the host falls inside the coming
operation (R11, R323, R326). -/
structure State.Alone (s : State) : Prop where
  live : s.refusal = none
  undisturbed : s.interleave = []

/-- The controller holds access mode `m`, and the device's decoder is in it: "`accessMode` must match `dwio`" (R465). -/
structure State.Fits (s : State) (m : AccessMode) : Prop where
  mode : s.ctl.accessMode = some m
  decoder : s.dev.dwio = (m == .dword)

/-- The controller holds the region at `base`, inside physical memory, and its cursors are in range (R42, R43, R92). -/
structure State.Holds (s : State) (base : Nat) : Prop where
  region : s.ctl.region = some ⟨base, regionSize s.cfg⟩
  inside : base + regionSize s.cfg ≤ memoryTop
  rxCur : s.ctl.rxCur < rxLen s.cfg
  txCur : s.ctl.txCur < txLen s.cfg

/-! ### The port map (R125) -/

/-- A decoded row: its mode, mask and match. -/
structure PortRow where
  mode : RowMode
  mask : Byte
  pattern : Byte
deriving DecidableEq, Repr

/-- The rows of R125, in its order. -/
def portRows : List PortRow :=
  [⟨.any, 0xF0, 0x00⟩, ⟨.any, 0xF1, 0x20⟩, ⟨.any, 0xF3, 0x40⟩, ⟨.wio, 0xFF, 0x30⟩, ⟨.wio, 0xFF, 0xD0⟩,
    ⟨.wio, 0xFF, 0xB0⟩, ⟨.wio, 0xFF, 0x32⟩, ⟨.wio, 0xFF, 0xB2⟩, ⟨.wio, 0xFF, 0x34⟩, ⟨.wio, 0xFF, 0x36⟩,
    ⟨.wio, 0xFF, 0xB6⟩, ⟨.dwio, 0xFF, 0x50⟩, ⟨.dwio, 0xFF, 0xD0⟩, ⟨.dwio, 0xFF, 0x54⟩, ⟨.dwio, 0xFF, 0xD4⟩,
    ⟨.dwio, 0xFF, 0x58⟩, ⟨.dwio, 0xFF, 0x5C⟩, ⟨.dwio, 0xFF, 0xDC⟩]

/-- A row takes the word `w` while the decoder's `dwio` is `d`. -/
def PortRow.takes (r : PortRow) (d : Bool) (w : Byte) : Bool :=
  modeAdmits r.mode d && (w &&& r.mask == r.pattern)

/-- What an undecoded request gives back (R173): all ones of the width `1 << SZ`, a dword for `SZ = 11`. -/
def undecodedResult (w : Byte) : Result :=
  if w.getLsbD 7 then .written
  else if w.extractLsb' 5 2 = 0 then .read 1 0xFF
  else if w.extractLsb' 5 2 = 1 then .read 2 0xFFFF
  else .read 4 0xFFFFFFFF

/-! ### Slots and the initialization block -/

/-- RX slot `i` as `rxArm` leaves it (R255): device-owned, with the full capacity. -/
structure RxArmed (p : Params) (base i : Nat) (m : Memory) : Prop where
  status : read16 m (rxDescAddr base i) = 0x8000
  byteCount : read16 m (rxDescAddr base i + 2) = neg16 p.bufferSize
  bufferAddress : read32 m (rxDescAddr base i + 4) = BitVec.ofNat 32 (rxBufAddr p base i)
  link : read32 m (rxDescAddr base i + 8) = 0
  reserved : read32 m (rxDescAddr base i + 12) = 0

/-- TX slot `i` as `txInit` leaves it (R259): software-owned and empty. -/
structure TxEmpty (p : Params) (base i : Nat) (m : Memory) : Prop where
  status : read16 m (txDescAddr p base i) = 0
  byteCount : read16 m (txDescAddr p base i + 2) = 0
  bufferAddress : read32 m (txDescAddr p base i + 4) = BitVec.ofNat 32 (txBufAddr p base i)
  link : read32 m (txDescAddr p base i + 8) = 0
  reserved : read32 m (txDescAddr p base i + 12) = 0

/-- TX slot `i` as `txPost` leaves it (R258): device-owned, one whole frame, the payload in its buffer. -/
structure TxFilled (p : Params) (base i : Nat) (payload : List Byte) (m : Memory) : Prop where
  status : read16 m (txDescAddr p base i) = 0x8300
  byteCount : read16 m (txDescAddr p base i + 2) = neg16 payload.length
  bufferAddress : read32 m (txDescAddr p base i + 4) = BitVec.ofNat 32 (txBufAddr p base i)
  link : read32 m (txDescAddr p base i + 8) = 0
  reserved : read32 m (txDescAddr p base i + 12) = 0
  bytes : readBytes m (txBufAddr p base i) payload.length = payload

/-- The initialization block `writeInitBlock` leaves (R291), field by field. -/
structure InitBlockAt (p : Params) (base : Nat) (mac : BitVec 48) (m : Memory) : Prop where
  mode : read16 m base = p.initMode
  rlen : readByte m (base + 2) = BitVec.ofNat 8 p.rxLog2 <<< 4
  tlen : readByte m (base + 3) = BitVec.ofNat 8 p.txLog2 <<< 4
  padr : readBytes m (base + 4) 6 = addressBytes mac
  reserved : read16 m (base + 10) = 0
  ladrf : read64 m (base + 12) = 0
  rdra : read32 m (base + 20) = BitVec.ofNat 32 (base + rxRingOff)
  tdra : read32 m (base + 24) = BitVec.ofNat 32 (base + txRingOff p)
  padding : read32 m (base + 28) = 0

/-- Outside `[a, a + n)` the two memories hold the same bytes. -/
def SameOutside (a n : Nat) (m m' : Memory) : Prop :=
  ∀ x, x < a ∨ a + n ≤ x → readByte m' x = readByte m x

/-- RX slot `i` holds a completed frame that `RECEIVE` delivers as `payload` (R256): software-owned, no error, STP and ENP,
a length its buffer can hold. -/
structure RxHolds (p : Params) (base i : Nat) (m : Memory) (payload : List Byte) : Prop where
  status : read16 m (rxDescAddr base i) = 0x0300
  byteCount : read16 m (rxDescAddr base i + 2) = neg16 payload.length
  nonempty : 1 ≤ payload.length
  fits : payload.length ≤ p.bufferSize
  bytes : readBytes m (rxBufAddr p base i) payload.length = payload

/-! ### The invariant -/

/-- The flags that only an INITED or RUNNING device raises are clear (R49, R362, R365, R370, R375): all but MERR, which a
failed fetch sets (R363). -/
abbrev Csr0.Quiet (c : Csr0) : Prop :=
  c.babl = false ∧ c.cerr = false ∧ c.miss = false ∧ c.rint = false ∧ c.tint = false ∧ c.idon = false

/-- The device (10_state.md section 5): the ranges of R36 and R37, and the CSR0 bits each run state has (R34, R35, R205 to
R210, R362, R363). -/
structure Dev.Inv (d : Dev) : Prop where
  rlen : 1 ≤ d.rlen ∧ d.rlen ≤ 512
  tlen : 1 ≤ d.tlen ∧ d.tlen ≤ 512
  rxCurDev : d.rxCurDev < d.rlen
  txCurDev : d.txCurDev < d.tlen
  rdra : d.rdra.toNat % 16 = 0
  tdra : d.tdra.toNat % 16 = 0
  pendingStart : d.pendingStart = true → d.devState = .initPending
  init : d.csr0.init = true ↔ d.devState ≠ .stopped
  strt : d.csr0.strt = true ↔ d.devState = .running
  rxon : d.csr0.rxon = true → d.devState = .running ∧ d.csr15.getLsbD 0 = false
  txon : d.csr0.txon = true → d.devState = .running ∧ d.csr15.getLsbD 1 = false
  tdmd : d.csr0.tdmd = true → d.csr0.txon = true
  style : d.devState = .inited ∨ d.devState = .running → d.swstyle = 2 ∧ d.csr15.getLsbD 2 = false
  quiet : d.devState = .stopped ∨ d.devState = .initPending → d.csr0.Quiet
  atStop : d.atStop = true → d.devState = .stopped ∧ d.csr0 = Csr0.clear

/-- The environment (R46): no frame is empty; what is sent has a length of R88, and what is delivered fits a buffer
(R256). -/
structure Env.Inv (p : Params) (e : Env) : Prop where
  arriving : ∀ f ∈ e.rxIn, f.bytes ≠ []
  sent : ∀ f ∈ e.txOut, 1 ≤ f.length ∧ f.length ≤ 4095
  delivered : ∀ f ∈ e.stackIn, 1 ≤ f.length ∧ f.length ≤ p.bufferSize

/-- The states in which the controller holds its resources (R310). -/
def Lifecycle.owning (l : Lifecycle) : Bool :=
  match l with
  | .unattached => false
  | .attached => true
  | .initializing => true
  | .running => true
  | .disabled => true
  | .released => false

/-- The controller (R40 to R45, R310, R312): its cursors, its region, the one it has freed, and the resources each lifecycle
state holds. In a
refused run an attach may have stopped half way. -/
structure Ctl.Inv (p : Params) (refused : Bool) (c : Ctl) : Prop where
  rxCur : c.rxCur < rxLen p
  txCur : c.txCur < txLen p
  region : ∀ r, c.region = some r → regionOk p r.base = true ∧ r.size = regionSize p
  owned : c.lc.owning = true →
    c.region.isSome ∧ c.accessMode.isSome ∧ c.mac.isSome ∧ c.ioClaimed = true ∧ c.irqRegistered = true
  freed : ∀ r, c.freed = some r → c.lc = .released ∧ regionOk p r.base = true ∧ r.size = regionSize p
  unowned : c.lc.owning = false → refused = false → c.region = none ∧ c.ioClaimed = false ∧ c.irqRegistered = false

/-- The invariant of the machine: memory in canonical form and inside the 2^32 bytes of R48, and the three agents. -/
structure State.Inv (s : State) : Prop where
  memory : Memory.wf s.mem = true
  addresses : ∀ c ∈ s.mem, c.1 < memoryTop
  dev : s.dev.Inv
  env : s.env.Inv s.cfg
  ctl : s.ctl.Inv s.cfg s.refusal.isSome

/-! ### RegisterAccess calls as programs of port requests (R133) -/

/-- Runs port requests in order; the data of the last one. -/
def runRequests : List Request → State → Option State
  | [], s => some s
  | r :: rs, s =>
    match runRequest r s with
    | .next s => runRequests rs s
    | .fault _ => none
    | .refused _ => none

/-- What a call hands back: the value of a read; `reset()` discards its value (R185), and a write has none. -/
def callValue (c : Pseudo) (r : Result) : Option Word :=
  match c, r with
  | .csrr _, .read _ v => some v
  | .bcrr _, .read _ v => some v
  | _, _ => none

/-- Runs RegisterAccess calls in access mode `m`, each by the port requests it expands to; the values they return. -/
def runCalls (m : AccessMode) : List Pseudo → State → Option (List (Option Word) × State)
  | [], s => some ([], s)
  | c :: cs, s =>
    match runRequests (expandPseudo m c) s with
    | none => none
    | some s =>
      match runCalls m cs s with
      | none => none
      | some (vs, t) => some (callValue c s.result :: vs, t)

/-- Two states that differ in the decoder mode and in the last result only. -/
def SameButMode (s t : State) : Prop :=
  t = { s with dev := { s.dev with dwio := t.dev.dwio }, result := t.result }

end Sys2Proof.Machine
end

