-- ==== Sys2Proof/Certificates/Slice0/Obligations.lean ====
section
/-!
DEFINITION. Certificates/Slice0/Obligations.lean: the statements for the provers. Each docstring names the rules of spec/ it
formalises. A statement that gives the device in full gives also `atStop`, the model's own field of log entry 22: a write of
STOP sets it, and S_RESET and every other write of CSR0 or CSR4 clear it.
-/

open Sys2Proof Sys2Proof.Machine

/-! ### Encoding -/

/-- Words written out from R122 and R125 decode to the instructions they stand for. -/
def Obligations.SpecWordsDecode : Prop :=
  decodeRequest false ⟨.pio, [0x03]⟩ = .ok (.apromRb 3) ∧
  decodeRequest true ⟨.pio, [0x2E]⟩ = .ok (.apromRw 0xE) ∧
  decodeRequest false ⟨.pio, [0x4C]⟩ = .ok (.apromRd 0xC) ∧
  decodeRequest false ⟨.pio, [0x30]⟩ = .ok .rdpRw ∧
  decodeRequest false ⟨.pio, [0xD0, 0x78, 0x56, 0x34, 0x12]⟩ = .ok (.dwioEnter 0x12345678) ∧
  decodeRequest true ⟨.pio, [0xD0, 0x78, 0x56, 0x34, 0x12]⟩ = .ok (.rdpWd 0x12345678) ∧
  decodeRequest false ⟨.pio, [0xB2, 0x14, 0x01]⟩ = .ok (.rapWw 0x0114) ∧
  decodeRequest true ⟨.pio, [0x58]⟩ = .ok .resetRd ∧
  decodeRequest true ⟨.pio, [0xDC, 0x02, 0, 0, 0]⟩ = .ok (.bdpWd 2) ∧
  decodeRequest false ⟨.op, [0x10]⟩ = .ok .attach ∧
  decodeRequest true ⟨.op, [0x40, 0xAA, 0xBB]⟩ = .ok (.transmit [0xAA, 0xBB]) ∧
  decodeRequest false ⟨.op, [0x70]⟩ = .ok .release

/-- R121, R122, R125: decoding the request an instruction encodes to gives the instruction back, in every mode that has
its row, with every operand at every value its encoding admits. -/
def Obligations.DecodeEncode : Prop :=
  ∀ (i : Instr) (dwio : Bool), i.wf = true → modeAdmits (rowMode i) dwio = true →
    decodeRequest dwio (encode i) = .ok i

/-- R128: a request that decodes has one meaning: it is the encoding of that instruction, which is well formed and whose
row is in the map of the mode. -/
def Obligations.EncodeDecode : Prop :=
  ∀ (dwio : Bool) (r : Request) (i : Instr), decodeRequest dwio r = .ok i →
    encode i = r ∧ i.wf = true ∧ modeAdmits (rowMode i) dwio = true

/-- R125, R126, R128: in each mode a word is taken by at most one row of the port map; where a row takes it, some operand
bytes make it an instruction, and where none does it is undecoded, whatever bytes follow. -/
def Obligations.PortDecoderFollowsTheMap : Prop :=
  ∀ (dwio : Bool) (w : Byte),
    (∀ r ∈ portRows, ∀ r' ∈ portRows, r.takes dwio w = true → r'.takes dwio w = true → r = r') ∧
    ((∃ r ∈ portRows, r.takes dwio w = true) → ∃ data i, decodePio dwio w data = .ok i) ∧
    ((∀ r ∈ portRows, r.takes dwio w = false) → ∀ data, decodePio dwio w data = .error (.undecoded w))

/-- R173 (with R126): an undecoded request is performed: a read answers all ones of its width, a write changes nothing,
and no fault is recorded. -/
def Obligations.UndecodedRequestIsPerformed : Prop :=
  ∀ (s : State) (w : Byte) (data : List Byte) (rest : List Event), s.refusal = none →
    s.agenda = .request ⟨.pio, w :: data⟩ :: rest → (∀ r ∈ portRows, r.takes s.dev.dwio w = false) →
    step s = .next { s with agenda := rest, result := undecodedResult w }

/-- R126, R173, R465: `exec` of an instruction whose row the decoder's mode does not have answers as an undecoded request
does: all ones of its width, or nothing. That `exec` reads the mode is the model's form (log entry 17). Of the
instruction's own request it says this too, but for DWIO_ENTER and RDP_WD: their word 0xD0 is a row in both modes (R125),
and in the other mode their request is the other row. -/
def Obligations.RowOfTheOtherModeIsUndecoded : Prop :=
  ∀ (i : Instr) (s : State) (w : Byte) (data : List Byte), s.refusal = none → encode i = ⟨.pio, w :: data⟩ →
    modeAdmits (rowMode i) s.dev.dwio = false → exec i s = .next { s with result := undecodedResult w }

/-- R131: a reserved operation word refuses the run. -/
def Obligations.ReservedOpIsRefused : Prop :=
  ∀ (s : State) (w : Byte) (data : List Byte) (rest : List Event), s.refusal = none →
    s.agenda = .request ⟨.op, w :: data⟩ :: rest →
    (w.extractLsb' 4 4 = 0 ∨ 8 ≤ (w.extractLsb' 4 4).toNat ∨ w.extractLsb' 0 4 ≠ 0) →
    step s = .next { s with agenda := rest, refusal := some .reservedOp }

/-! ### The step -/

/-- A step whose next event is a request that decodes runs exactly that instruction, in the state without the event, the
mode read at that moment (R160). That the requests come from the schedule is the model's form (log entry 4). -/
def Obligations.StepRunsTheDecodedRequest : Prop :=
  ∀ (s : State) (r : Request) (rest : List Event) (i : Instr), s.refusal = none → s.agenda = .request r :: rest →
    decodeRequest s.dev.dwio r = .ok i → step s = exec i { s with agenda := rest }

/-- R134, R46: a step whose next event is an agent step takes it; an agent step that is not enabled changes nothing; an
arriving frame is appended to `rxIn` and changes nothing else. R463: nor does a step that would access a freed region
change anything. That the order comes from the schedule, that a step not enabled does not occur, that the platform's
coming answers are set by a step, that a frame without bytes is not appended, and that a step that R463 says cannot occur
does not, are the model's forms (log entries 4, 15, 7, 20 and 23). -/
def Obligations.StepTakesAgentSteps : Prop :=
  (∀ (s : State) (a : AgentStep) (rest : List Event), s.refusal = none → s.agenda = .agent a :: rest →
    step s = .next (agentStep a { s with agenda := rest })) ∧
  (∀ s : State, s.dev.devState ≠ .initPending → agentStep .init s = s) ∧
  (∀ (s : State) (o : TxOutcome) (c : Bool), (s.dev.devState ≠ .running ∨ s.dev.csr0.txon = false) →
    agentStep (.tx o c) s = s) ∧
  (∀ s : State, s.env.rxIn = [] → agentStep .rx s = s) ∧
  (∀ (s : State) (f : Frame), s.refusal = none →
    (f.bytes ≠ [] → agentStep (.frame f) s = { s with env := { s.env with rxIn := s.env.rxIn ++ [f] } }) ∧
    (f.bytes = [] → agentStep (.frame f) s = s)) ∧
  (∀ (s : State) (g : Platform), s.refusal = none →
    agentStep (.platform g) s = { s with env := { s.env with platform := g } }) ∧
  (∀ (s : State) (a : AgentStep), barred a s = true → agentStep a s = s)

/-- R326, R160, R173: a port request the host issues between two steps of a controller operation does what the same request
does at any other time, and its answer is kept beside the operation's result (the model's form, log entry 9). R456: the
model does not detect a broken RAP/RDP pair: with a RAP write between the two accesses of DISABLE, in word mode, its
second access writes whatever CSR RAP then names. -/
def Obligations.HostPortInsideAnOperation : Prop :=
  (∀ (s : State) (w : Byte) (data : List Byte), s.refusal = none →
    (∀ i, decodePio s.dev.dwio w data = .ok i →
      ∃ t, exec i s = .next t ∧
        move (.port w data) s = { t with result := s.result, portAnswers := s.portAnswers ++ [t.result] }) ∧
    ((∀ r ∈ portRows, r.takes s.dev.dwio w = false) →
      move (.port w data) s = { s with portAnswers := s.portAnswers ++ [undecodedResult w] })) ∧
  ∀ (s : State) (n : Byte), s.refusal = none → s.Fits .word →
    s.ctl.lc = .attached ∨ s.ctl.lc = .initializing ∨ s.ctl.lc = .running →
    s.interleave = [[.port 0xB2 [n, 0]]] →
    exec .disable s = .next { s with
      dev := csrWrite { s.dev with rap := n } n 0x0004
      ctl := { s.ctl with lc := .disabled }
      interleave := []
      result := .ok
      portAnswers := s.portAnswers ++ [.written] }

/-- R417: once the run is refused, no agent takes a step: neither the schedule, nor any instruction, nor any agent. The
refusal every later step answers is the model's form (log entry 12). -/
def Obligations.RefusedRunStops : Prop :=
  ∀ (s : State) (r : RefuseReason), s.refusal = some r →
    step s = .refused (.runRefused r) ∧ (∀ i, exec i s = .refused (.runRefused r)) ∧ ∀ a, agentStep a s = s

/-! ### Port requests -/

/-- R161, R162, R163: the address PROM, read by byte, word and dword, in either mode, without a side effect. -/
def Obligations.ApromReads : Prop :=
  ∀ (s : State) (off : BitVec 4), s.refusal = none →
    exec (.apromRb off) s = .next { s with result := .read 1 ((s.cfg.aprom.get off.toFin).setWidth 32) } ∧
    (off.getLsbD 0 = false →
      exec (.apromRw off) s = .next { s with
        result := .read 2 ((s.cfg.aprom.get off.toFin).setWidth 32 |||
          (s.cfg.aprom.get (off + 1).toFin).setWidth 32 <<< 8) }) ∧
    (off.extractLsb' 0 2 = 0 →
      exec (.apromRd off) s = .next { s with
        result := .read 4 ((s.cfg.aprom.get off.toFin).setWidth 32 |||
          (s.cfg.aprom.get (off + 1).toFin).setWidth 32 <<< 8 |||
          (s.cfg.aprom.get (off + 2).toFin).setWidth 32 <<< 16 |||
          (s.cfg.aprom.get (off + 3).toFin).setWidth 32 <<< 24) })

/-- R167, R168, R176, R177: RAP's four rows, their encodings; RAP is read zero-extended and written from the data's low
byte. -/
def Obligations.RapReadsAndWrites : Prop :=
  (encode .rapRw = ⟨.pio, [0x32]⟩ ∧ encode .rapRd = ⟨.pio, [0x54]⟩ ∧
    (∀ v, encode (.rapWw v) = ⟨.pio, 0xB2 :: halfBytes v⟩) ∧ ∀ v, encode (.rapWd v) = ⟨.pio, 0xD4 :: wordBytes v⟩) ∧
  ∀ s : State, s.refusal = none →
    (s.dev.dwio = false →
      exec .rapRw s = .next { s with result := .read 2 (s.dev.rap.setWidth 32) } ∧
      ∀ v : Half, exec (.rapWw v) s =
        .next { s with dev := { s.dev with rap := v.extractLsb' 0 8 }, result := .written }) ∧
    (s.dev.dwio = true →
      exec .rapRd s = .next { s with result := .read 4 (s.dev.rap.setWidth 32) } ∧
      ∀ v : Word, exec (.rapWd v) s =
        .next { s with dev := { s.dev with rap := v.extractLsb' 0 8 }, result := .written })

/-- R164, R166, R174, R175: RDP's four rows, their encodings; RDP reads the CSR that RAP names, zero-extended, and
changes nothing; it writes that CSR with the low 16 bits of the data, and nothing else. -/
def Obligations.RdpReadsAndWrites : Prop :=
  (encode .rdpRw = ⟨.pio, [0x30]⟩ ∧ encode .rdpRd = ⟨.pio, [0x50]⟩ ∧
    (∀ v, encode (.rdpWw v) = ⟨.pio, 0xB0 :: halfBytes v⟩) ∧ ∀ v, encode (.rdpWd v) = ⟨.pio, 0xD0 :: wordBytes v⟩) ∧
  ∀ s : State, s.refusal = none →
    (s.dev.dwio = false →
      exec .rdpRw s = .next { s with result := .read 2 ((csrRead s.dev s.dev.rap).setWidth 32) } ∧
      ∀ v : Half, exec (.rdpWw v) s =
        .next { s with dev := csrWrite s.dev s.dev.rap v, result := .written }) ∧
    (s.dev.dwio = true →
      exec .rdpRd s = .next { s with result := .read 4 ((csrRead s.dev s.dev.rap).setWidth 32) } ∧
      ∀ v : Word, exec (.rdpWd v) s =
        .next { s with dev := csrWrite s.dev s.dev.rap (v.extractLsb' 0 16), result := .written })

/-- R170, R171, R179, R180, R215, R33: BDP's four rows, their encodings; BDP reaches BCR20, which reads SWSTYLE
zero-extended and takes a write of its low byte only while STOPPED; every other BCR reads 0 and ignores writes. -/
def Obligations.BdpReadsAndWrites : Prop :=
  (encode .bdpRw = ⟨.pio, [0x36]⟩ ∧ encode .bdpRd = ⟨.pio, [0x5C]⟩ ∧
    (∀ v, encode (.bdpWw v) = ⟨.pio, 0xB6 :: halfBytes v⟩) ∧ ∀ v, encode (.bdpWd v) = ⟨.pio, 0xDC :: wordBytes v⟩) ∧
  ∀ s : State, s.refusal = none →
    (s.dev.dwio = false →
      exec .bdpRw s =
        .next { s with result := .read 2 (if s.dev.rap = 20 then s.dev.swstyle.setWidth 32 else 0) } ∧
      ∀ v : Half, exec (.bdpWw v) s =
        .next { s with
          dev := { s.dev with
            swstyle :=
              if s.dev.rap = 20 ∧ s.dev.devState = .stopped then v.extractLsb' 0 8 else s.dev.swstyle }
          result := .written }) ∧
    (s.dev.dwio = true →
      exec .bdpRd s =
        .next { s with result := .read 4 (if s.dev.rap = 20 then s.dev.swstyle.setWidth 32 else 0) } ∧
      ∀ v : Word, exec (.bdpWd v) s =
        .next { s with
          dev := { s.dev with
            swstyle :=
              if s.dev.rap = 20 ∧ s.dev.devState = .stopped then v.extractLsb' 0 8 else s.dev.swstyle }
          result := .written })

/-- R169, R178, R451, with the draw as log entry 8 models it: a read of RESET performs S_RESET and answers a drawn
value; what S_RESET does not name is unchanged, and CSR0 then reads 0x0004. -/
def Obligations.ResetReadsReset : Prop :=
  (encode .resetRw = ⟨.pio, [0x34]⟩ ∧ encode .resetRd = ⟨.pio, [0x58]⟩) ∧
  ∀ s : State, s.refusal = none →
    let d : Dev := { s.dev with
      devState := .stopped
      pendingStart := false
      atStop := false
      csr0 := ⟨false, false, false, false, false, false, false, false, false, false, false, false, false⟩
      csr4 := ⟨false, false⟩
      csr15 := 0
      csr112 := 0
      rap := 0 }
    csrRead d 0 = 0x0004 ∧
    (s.dev.dwio = false →
      exec .resetRw s = .next { s with
        dev := d
        resetReads := s.resetReads + 1
        result := .read 2 (((Config.resetReadValue s.resetReads).extractLsb' 0 16).setWidth 32) }) ∧
    (s.dev.dwio = true →
      exec .resetRd s = .next { s with
        dev := d
        resetReads := s.resetReads + 1
        result := .read 4 (Config.resetReadValue s.resetReads) })

/-- R165: a dword write to 0x10 in word mode enters dword mode and is also performed as an RDP write. -/
def Obligations.DwioEnterSwitchesAndWrites : Prop :=
  ∀ (s : State) (v : Word), s.refusal = none → s.dev.dwio = false →
    exec (.dwioEnter v) s =
      .next { s with
        dev := csrWrite { s.dev with dwio := true } s.dev.rap (v.extractLsb' 0 16), result := .written }

/-- R160, R173, R22, R49: every port request answers a next state that differs from the present one in the device's
port-visible registers, the count of RESET draws and the result alone; it sets no W1C flag, and leaves dword mode never.
-/
def Obligations.PortRequestFrame : Prop :=
  ∀ (i : Instr) (s : State), (encode i).fmt = .pio → s.refusal = none →
    ∃ t, exec i s = .next t ∧
      t.ctl = s.ctl ∧ t.env = s.env ∧ t.mem = s.mem ∧ t.faults = s.faults ∧ t.refusal = none ∧ t.cfg = s.cfg ∧
      t.agenda = s.agenda ∧ t.interleave = s.interleave ∧ t.portAnswers = s.portAnswers ∧
      t.dev.padr = s.dev.padr ∧ t.dev.ladrf = s.dev.ladrf ∧ t.dev.rdra = s.dev.rdra ∧ t.dev.tdra = s.dev.tdra ∧
      t.dev.rlen = s.dev.rlen ∧ t.dev.tlen = s.dev.tlen ∧ t.dev.rxCurDev = s.dev.rxCurDev ∧
      t.dev.txCurDev = s.dev.txCurDev ∧
      (s.dev.dwio = true → t.dev.dwio = true) ∧
      (t.dev.csr0.babl = true → s.dev.csr0.babl = true) ∧ (t.dev.csr0.cerr = true → s.dev.csr0.cerr = true) ∧
      (t.dev.csr0.miss = true → s.dev.csr0.miss = true) ∧ (t.dev.csr0.merr = true → s.dev.csr0.merr = true) ∧
      (t.dev.csr0.rint = true → s.dev.csr0.rint = true) ∧ (t.dev.csr0.tint = true → s.dev.csr0.tint = true) ∧
      (t.dev.csr0.idon = true → s.dev.csr0.idon = true) ∧ (t.dev.csr4.mfco = true → s.dev.csr4.mfco = true)

/-- R186, which the spec marks as its own inference: any sequence of RegisterAccess calls run in word mode and run in
dword mode returns the same values and reaches the same state, the decoder mode and the last result apart. -/
def Obligations.WidthIndependence : Prop :=
  ∀ (calls : List Pseudo) (s s' : State), s.refusal = none → s.dev.dwio = false → s'.dev.dwio = true →
    SameButMode s s' →
    ∃ vs t t', runCalls .word calls s = some (vs, t) ∧ runCalls .dword calls s' = some (vs, t') ∧
      t.dev.dwio = false ∧ t'.dev.dwio = true ∧ SameButMode t t'

/-! ### Control and status registers -/

/-- R200, R25, R31: every CSR as RDP reads it, CSR0 bit by bit with its derived bits, the unimplemented ones 0; and R38:
the interrupt line is INTR and IENA, and, where the invariant holds, the formula of R25 with IENA. That CSR0.INTR itself
reads 0 from a STOP to the next write of CSR0 or CSR4, also with an unmasked MFCO in CSR4, is the model's choice between
R24, R210, R452 and R25, named in log entry 22. -/
def Obligations.CsrReadValues : Prop :=
  ∀ d : Dev,
    let c := csrRead d 0
    let err := d.csr0.babl || d.csr0.cerr || d.csr0.miss || d.csr0.merr
    let sources := d.csr0.babl || d.csr0.miss || d.csr0.merr || d.csr0.rint || d.csr0.tint || d.csr0.idon ||
      (d.csr4.mfco && !d.csr4.mfcom)
    let intr := sources && !d.atStop
    c.getLsbD 15 = err ∧ c.getLsbD 14 = d.csr0.babl ∧ c.getLsbD 13 = d.csr0.cerr ∧ c.getLsbD 12 = d.csr0.miss ∧
    c.getLsbD 11 = d.csr0.merr ∧ c.getLsbD 10 = d.csr0.rint ∧ c.getLsbD 9 = d.csr0.tint ∧
    c.getLsbD 8 = d.csr0.idon ∧ c.getLsbD 7 = intr ∧ c.getLsbD 6 = d.csr0.iena ∧ c.getLsbD 5 = d.csr0.rxon ∧
    c.getLsbD 4 = d.csr0.txon ∧ c.getLsbD 3 = d.csr0.tdmd ∧
    (c.getLsbD 2 = true ↔ d.devState = .stopped) ∧ c.getLsbD 1 = d.csr0.strt ∧ c.getLsbD 0 = d.csr0.init ∧
    csrRead d 1 = d.csr1 ∧ csrRead d 2 = d.csr2 ∧ csrRead d 15 = d.csr15 ∧ csrRead d 112 = d.csr112 ∧
    (∀ k, (csrRead d 4).getLsbD k = ((k == 9 && d.csr4.mfco) || (k == 8 && d.csr4.mfcom))) ∧
    (∀ n : Byte, n ≠ 0 → n ≠ 1 → n ≠ 2 → n ≠ 4 → n ≠ 15 → n ≠ 112 → csrRead d n = 0) ∧
    irq d = (c.getLsbD 7 && c.getLsbD 6) ∧ (d.Inv → irq d = (sources && d.csr0.iena))

/-- R202, R203, R204, R210: with STOP a CSR0 write is `stop()` and nothing else of it takes effect, and the interrupt line
is then low; without STOP a 1 clears its W1C flag and a 0 leaves it, IENA takes bit 6, and no register but CSR0, the run
state and `pendingStart` changes. After STOP, CSR0 reads 0x0004, whatever CSR4 holds; that it does so also where CSR4 holds
an unmasked MFCO, and until the next write of CSR0 or CSR4, which clears the model's own field `atStop`, is the model's
choice between R452 and R25, named in log entry 22. -/
def Obligations.Csr0StopAndAcknowledge : Prop :=
  ∀ (d : Dev) (v : Half),
    let t := csrWrite d 0 v
    (v.getLsbD 2 = true →
      t = { d with
        devState := .stopped
        pendingStart := false
        atStop := true
        csr0 := ⟨false, false, false, false, false, false, false, false, false, false, false, false, false⟩ } ∧
      csrRead t 0 = 0x0004 ∧
      irq t = false) ∧
    (v.getLsbD 2 = false →
      t.csr0.babl = (d.csr0.babl && !v.getLsbD 14) ∧ t.csr0.cerr = (d.csr0.cerr && !v.getLsbD 13) ∧
      t.csr0.miss = (d.csr0.miss && !v.getLsbD 12) ∧ t.csr0.merr = (d.csr0.merr && !v.getLsbD 11) ∧
      t.csr0.rint = (d.csr0.rint && !v.getLsbD 10) ∧ t.csr0.tint = (d.csr0.tint && !v.getLsbD 9) ∧
      t.csr0.idon = (d.csr0.idon && !v.getLsbD 8) ∧ t.csr0.iena = v.getLsbD 6 ∧
      t = { d with csr0 := t.csr0, devState := t.devState, pendingStart := t.pendingStart, atStop := false }) ∧
    (csrWrite d 4 v).atStop = false

/-- R205, R206, R207, R209: without STOP, INIT is accepted only from STOPPED and remembers a STRT of the same write; a
STRT whose write did not take INIT starts an INITED device, is remembered while INIT_PENDING, and has no effect
otherwise; and TDMD is set only when the device is then RUNNING with TXON. -/
def Obligations.Csr0Commands : Prop :=
  ∀ (d : Dev) (v : Half), v.getLsbD 2 = false →
    let t := csrWrite d 0 v
    (d.devState = .stopped → v.getLsbD 0 = true →
      t.devState = .initPending ∧ t.pendingStart = v.getLsbD 1 ∧ t.csr0.init = true ∧ t.csr0.strt = d.csr0.strt ∧
      t.csr0.rxon = d.csr0.rxon ∧ t.csr0.txon = d.csr0.txon) ∧
    (d.devState = .inited → v.getLsbD 1 = true →
      t.devState = .running ∧ t.pendingStart = d.pendingStart ∧ t.csr0.init = d.csr0.init ∧ t.csr0.strt = true ∧
      t.csr0.rxon = !d.csr15.getLsbD 0 ∧ t.csr0.txon = !d.csr15.getLsbD 1) ∧
    (d.devState = .initPending →
      t.devState = .initPending ∧ t.pendingStart = (d.pendingStart || v.getLsbD 1) ∧ t.csr0.init = d.csr0.init ∧
      t.csr0.strt = d.csr0.strt ∧ t.csr0.rxon = d.csr0.rxon ∧ t.csr0.txon = d.csr0.txon) ∧
    ((d.devState = .stopped ∧ v.getLsbD 0 = false) ∨ (d.devState = .inited ∧ v.getLsbD 1 = false) ∨
        d.devState = .running →
      t.devState = d.devState ∧ t.pendingStart = d.pendingStart ∧ t.csr0.init = d.csr0.init ∧
      t.csr0.strt = d.csr0.strt ∧ t.csr0.rxon = d.csr0.rxon ∧ t.csr0.txon = d.csr0.txon) ∧
    t.csr0.tdmd = (d.csr0.tdmd || (v.getLsbD 3 && t.devState == .running && t.csr0.txon))

/-- R211, R213, R212, R214, R31, R457: CSR1, CSR2 and CSR15 take a write only while STOPPED; CSR4 acknowledges MFCO and
takes MFCOM at any time; CSR112 and every unimplemented number ignore writes. What a CSR4 write makes of the model's own
field `atStop` is said in `Csr0StopAndAcknowledge`. -/
def Obligations.CsrWrites : Prop :=
  ∀ (d : Dev) (v : Half),
    (d.devState = .stopped →
      csrWrite d 1 v = { d with csr1 := v } ∧ csrWrite d 2 v = { d with csr2 := v } ∧
      csrWrite d 15 v = { d with csr15 := v }) ∧
    (d.devState ≠ .stopped → csrWrite d 1 v = d ∧ csrWrite d 2 v = d ∧ csrWrite d 15 v = d) ∧
    csrWrite d 4 v = { d with csr4 := ⟨d.csr4.mfco && !v.getLsbD 9, v.getLsbD 8⟩, atStop := (csrWrite d 4 v).atStop } ∧
    ∀ n : Byte, n ≠ 0 → n ≠ 1 → n ≠ 2 → n ≠ 4 → n ≠ 15 → csrWrite d n v = d

/-- R216, which the spec marks as its own inference: writing back to CSR0 the value just read clears exactly the flags
that were set and changes nothing else of a device that is not STOPPED; on a STOPPED device it is `stop()`. -/
def Obligations.WriteBackIsSafe : Prop :=
  ∀ d : Dev, d.Inv →
    (d.devState ≠ .stopped →
      csrWrite d 0 (csrRead d 0) = { d with
        csr0 := { d.csr0 with
          babl := false, cerr := false, miss := false, merr := false, rint := false, tint := false, idon := false } }) ∧
    (d.devState = .stopped → csrWrite d 0 (csrRead d 0) = { d with csr0 := Csr0.clear, atStop := true })

/-! ### Ownership -/

/-- R251, R252, R253 (with R99): a release of a descriptor the device owns, a claim of one software owns, and a controller
store into a device-owned slot, while the device is not STOPPED, are each recorded and not performed; otherwise each is
performed and records nothing. -/
def Obligations.OwnershipViolationsAreDetected : Prop :=
  ∀ (s : State) (ring : Ring) (i d a : Nat) (st : Half) (bytes : List Byte),
    (s.dev.devState ≠ .stopped → (read16 s.mem d).getLsbD 15 = true →
      releaseDesc ring i d st s =
        { s with faults := s.faults ++ [.protocolViolation .doubleRelease ring i] } ∧
      ctlStore ring i d a bytes s =
        { s with faults := s.faults ++ [.protocolViolation .touchDeviceOwned ring i] }) ∧
    (s.dev.devState = .stopped ∨ (read16 s.mem d).getLsbD 15 = false →
      releaseDesc ring i d st s = { s with mem := write16 s.mem d st } ∧
      ctlStore ring i d a bytes s = { s with mem := writeBytes s.mem a bytes }) ∧
    ((read16 s.mem d).getLsbD 15 = false →
      claimDesc ring i d st s =
        { s with faults := s.faults ++ [.protocolViolation .doubleClaim ring i] }) ∧
    ((read16 s.mem d).getLsbD 15 = true →
      claimDesc ring i d st s = { s with mem := write16 s.mem d st })

/-! ### Device: initialization -/

/-- R361, R362, R363: what `dev.init` does when it latches nothing: any style but 2 and any block with LOOP refuse
the run; a block outside the window sets MERR, clears INIT and stops the device, every other CSR0 field kept. The
bytes the step reaches are apart from a freed region (R463, log entry 23). -/
def Obligations.InitFetchThatLatchesNothing : Prop :=
  ∀ s : State, s.refusal = none → s.dev.devState = .initPending →
    let a := ((s.dev.csr2 ++ s.dev.csr1 : Word) &&& 0xFFFFFFFC).toNat
    (s.dev.swstyle ≠ 2 → agentStep .init s = { s with refusal := some .unsupportedStyle }) ∧
    (s.dev.swstyle = 2 → dmaOk s.cfg a 28 = false →
      agentStep .init s = { s with
        dev := { s.dev with
          csr0 := { s.dev.csr0 with merr := true, init := false }, devState := .stopped, pendingStart := false } }) ∧
    (s.dev.swstyle = 2 → dmaOk s.cfg a 28 = true → meetsFreed s (a, 28) = false → (read16 s.mem a).getLsbD 2 = true →
      agentStep .init s = { s with refusal := some .loopback })

/-- R362, R89, R90, R91, R35: what `dev.init` latches from a readable block, the ring lengths `2^min(L, 9)`, the ring
bases without their low four bits; a remembered STRT starts the device in the same step. The bytes the step reaches
are apart from a freed region (R463, log entry 23). -/
def Obligations.InitFetchLatchesTheBlock : Prop :=
  ∀ (s : State) (l r : Nat), s.refusal = none → s.dev.devState = .initPending → s.dev.swstyle = 2 →
    let a := ((s.dev.csr2 ++ s.dev.csr1 : Word) &&& 0xFFFFFFFC).toNat
    dmaOk s.cfg a 28 = true → meetsFreed s (a, 28) = false → (read16 s.mem a).getLsbD 2 = false →
    (readByte s.mem (a + 2)).toNat / 16 = l → (readByte s.mem (a + 3)).toNat / 16 = r →
    let t := agentStep .init s
    (∃ d, t = { s with dev := d }) ∧
    t.dev.csr15 = read16 s.mem a ∧ t.dev.rlen = 2 ^ min l 9 ∧ t.dev.tlen = 2 ^ min r 9 ∧
    addressBytes t.dev.padr = readBytes s.mem (a + 4) 6 ∧ t.dev.ladrf = read64 s.mem (a + 12) ∧
    t.dev.rdra.toNat = (read32 s.mem (a + 20)).toNat / 16 * 16 ∧
    t.dev.tdra.toNat = (read32 s.mem (a + 24)).toNat / 16 * 16 ∧ t.dev.rxCurDev = 0 ∧ t.dev.txCurDev = 0 ∧
    t.dev.pendingStart = false ∧
    (s.dev.pendingStart = false → t.dev.devState = .inited ∧ t.dev.csr0 = { s.dev.csr0 with idon := true }) ∧
    (s.dev.pendingStart = true → t.dev.devState = .running ∧
      t.dev.csr0 = { s.dev.csr0 with
        idon := true, strt := true, rxon := !(read16 s.mem a).getLsbD 0, txon := !(read16 s.mem a).getLsbD 1 })

/-- R291, R362: the device reads from the block the controller writes exactly what the controller meant: its mode,
the lengths of its rings, its station address, an empty filter and the two ring addresses. The bytes the step reaches
are apart from a freed region (R463, log entry 23). -/
def Obligations.DeviceReadsTheControllersBlock : Prop :=
  ∀ (s : State) (base : Nat) (mac : BitVec 48), s.refusal = none → s.dev.devState = .initPending → s.dev.swstyle = 2 →
    s.cfg.wf = true → regionOk s.cfg base = true → meetsFreed s (base, 28) = false → s.cfg.initMode.getLsbD 2 = false →
    (s.dev.csr2 ++ s.dev.csr1 : Word) = BitVec.ofNat 32 base →
    let t := agentStep .init (writeInitBlock base mac s)
    t.refusal = none ∧ t.dev.csr15 = s.cfg.initMode ∧ t.dev.rlen = rxLen s.cfg ∧ t.dev.tlen = txLen s.cfg ∧
    t.dev.padr = mac ∧ t.dev.ladrf = 0 ∧ t.dev.rdra.toNat = base + rxRingOff ∧
    t.dev.tdra.toNat = base + txRingOff s.cfg ∧ t.dev.csr0.idon = true

/-! ### Device: transmit -/

/-- R365, R367, R369: a poll that finds a well-formed device-owned descriptor with a readable buffer: the frame goes
out when the outcome is OK, with BABL when it is too long; the collision draw sets CERR; the descriptor comes back
with its STP and ENP and the outcome's error bits; TINT and the cursor move; only the status word of that descriptor
changes in memory. That the status word is written at `tdra + 16 * cursor` in every state, where the device has read the
descriptor, also where the host gave the device another ring than the controller's (R252), is the model's choice (log
entry 26). The bytes the step reaches are apart from a freed region (R463, log entry 23). -/
def Obligations.TxPollReturnsTheFrame : Prop :=
  ∀ (s : State) (o : TxOutcome) (c : Bool) (n : Nat), s.refusal = none → s.dev.devState = .running →
    s.dev.csr0.txon = true →
    let d := s.dev.tdra.toNat + 16 * s.dev.txCurDev
    let st := read16 s.mem d
    let ba := (read32 s.mem (d + 4)).toNat
    dmaOk s.cfg d 16 = true → st.getLsbD 15 = true → st.getLsbD 9 = true → st.getLsbD 8 = true →
    dec16 (read16 s.mem (d + 2)) = n → 1 ≤ n → n ≤ 4095 → dmaOk s.cfg ba n = true →
    meetsFreed s (d, 16) = false → meetsFreed s (ba, n) = false →
    let t := agentStep (.tx o c) s
    t = { s with
      dev := { s.dev with
        txCurDev := (s.dev.txCurDev + 1) % s.dev.tlen
        csr0 := { s.dev.csr0 with
          tdmd := false
          tint := true
          cerr := s.dev.csr0.cerr || c
          babl := s.dev.csr0.babl || (o == .ok && decide (n > s.cfg.txBabbleLimit)) } }
      env := { s.env with
        txOut := s.env.txOut ++ if o = .ok then [readBytes s.mem ba n] else [] }
      mem := t.mem } ∧
    read16 t.mem d = (match o with
      | .ok => 0
      | .uflo => 0x6000
      | .lcol => 0x5000) ||| (st &&& 0x0300) ∧
    SameOutside d 2 s.mem t.mem

/-- R365, R366, R368: a device-owned descriptor without STP or ENP, or with a length outside 1 to 4095, comes back
with ERR, and one whose buffer is outside the window with ERR and TMER and MERR set; neither is sent. That the status
word is written at `tdra + 16 * cursor` in every state, also where that is not the controller's ring (R252), is the
model's choice (log entry 26). The bytes the step reaches are apart from a freed region (R463, log entry 23). -/
def Obligations.TxPollReturnsBadDescriptors : Prop :=
  ∀ (s : State) (o : TxOutcome) (c : Bool), s.refusal = none → s.dev.devState = .running → s.dev.csr0.txon = true →
    let d := s.dev.tdra.toNat + 16 * s.dev.txCurDev
    let st := read16 s.mem d
    let ba := (read32 s.mem (d + 4)).toNat
    let n := dec16 (read16 s.mem (d + 2))
    dmaOk s.cfg d 16 = true → meetsFreed s (d, 16) = false → st.getLsbD 15 = true →
    let t := agentStep (.tx o c) s
    let malformed := st.getLsbD 9 = false ∨ st.getLsbD 8 = false ∨ n < 1 ∨ 4095 < n
    (malformed →
      t = { s with
        dev := { s.dev with
          txCurDev := (s.dev.txCurDev + 1) % s.dev.tlen, csr0 := { s.dev.csr0 with tdmd := false, tint := true } }
        mem := t.mem } ∧
      read16 t.mem d = 0x4000 ||| (st &&& 0x0300) ∧ SameOutside d 2 s.mem t.mem) ∧
    (¬ malformed → dmaOk s.cfg ba n.toNat = false →
      t = { s with
        dev := { s.dev with
          txCurDev := (s.dev.txCurDev + 1) % s.dev.tlen
          csr0 := { s.dev.csr0 with tdmd := false, tint := true, merr := true } }
        mem := t.mem } ∧
      read16 t.mem d = 0x4800 ||| (st &&& 0x0300) ∧ SameOutside d 2 s.mem t.mem)

/-- R365, R360: a poll of a software-owned descriptor changes only TDMD; a descriptor outside the window sets MERR
and turns the transmitter off. The bytes the step reaches are apart from a freed region (R463, log entry 23). -/
def Obligations.TxPollWithoutDescriptor : Prop :=
  ∀ (s : State) (o : TxOutcome) (c : Bool), s.refusal = none → s.dev.devState = .running → s.dev.csr0.txon = true →
    let d := s.dev.tdra.toNat + 16 * s.dev.txCurDev
    (dmaOk s.cfg d 16 = true → meetsFreed s (d, 16) = false → (read16 s.mem d).getLsbD 15 = false →
      agentStep (.tx o c) s = { s with dev := { s.dev with csr0 := { s.dev.csr0 with tdmd := false } } }) ∧
    (dmaOk s.cfg d 16 = false →
      agentStep (.tx o c) s =
        { s with dev := { s.dev with csr0 := { s.dev.csr0 with tdmd := false, merr := true, txon := false } } })

/-! ### Device: receive -/

/-- R371: the address filter. -/
def Obligations.AddressFilter : Prop :=
  ∀ (d : Dev) (f : Frame), acceptFrame d f = true ↔
    d.csr15.getLsbD 15 = true ∨
      (6 ≤ f.bytes.length ∧
        (f.bytes.take 6 = addressBytes d.padr ∨ f.bytes.take 6 = List.replicate 6 0xFF ∨
          (∃ b rest, f.bytes = b :: rest ∧ b.getLsbD 0 = true ∧
            Config.ladrfMatch d.ladrf (f.bytes.take 6) = true)))

/-- R370, R372, R373: an accepted frame goes into the device-owned descriptor at the cursor: its first bytes, as many
as the capacity holds, into the buffer, the number stored as `byteCount`, the error bits with ERR in the status word,
OWN clear; RINT and the cursor move; memory outside the buffer bytes and the descriptor's first four bytes is
unchanged, and no violation is recorded. That the status word is written at `rdra + 16 * cursor` in every state, also
where that is not the controller's ring (R252), is the model's choice (log entry 26). A buffer that overlaps the
descriptor's first four bytes is left out (log entry 25). The bytes the step reaches are apart from a freed region (R463,
log entry 23). -/
def Obligations.RxFillsTheDescriptor : Prop :=
  ∀ (s : State) (f : Frame) (fs : List Frame) (cap : Nat), s.refusal = none → s.env.rxIn = f :: fs →
    s.dev.devState = .running → s.dev.csr0.rxon = true → acceptFrame s.dev f = true →
    let d := s.dev.rdra.toNat + 16 * s.dev.rxCurDev
    let c := dec16 (read16 s.mem (d + 2))
    let ba := (read32 s.mem (d + 4)).toNat
    let n := min f.bytes.length cap
    dmaOk s.cfg d 16 = true → meetsFreed s (d, 16) = false → (read16 s.mem d).getLsbD 15 = true →
    ((1 ≤ c ∧ c ≤ 4095 ∧ c = cap) ∨ ((c < 1 ∨ 4095 < c) ∧ cap = 0)) →
    (n = 0 ∨ dmaOk s.cfg ba n = true ∧ meetsFreed s (ba, n) = false) → (ba + n ≤ d ∨ d + 4 ≤ ba) →
    let t := agentStep .rx s
    let st := read16 t.mem d
    t = { s with
      dev := { s.dev with
        rxCurDev := (s.dev.rxCurDev + 1) % s.dev.rlen, csr0 := { s.dev.csr0 with rint := true } }
      env := { s.env with rxIn := fs }
      mem := t.mem } ∧
    readBytes t.mem ba n = f.bytes.take n ∧ read16 t.mem (d + 2) = neg16 n ∧
    st.getLsbD 15 = false ∧
    st.getLsbD 14 = (decide (f.bytes.length > cap) || f.framErr || f.ofloErr || f.crcErr) ∧
    st.getLsbD 13 = f.framErr ∧ st.getLsbD 12 = f.ofloErr ∧ st.getLsbD 11 = f.crcErr ∧
    st.getLsbD 10 = decide (f.bytes.length > cap) ∧ st.extractLsb' 0 10 = 0x300 ∧
    ∀ x, (x < ba ∨ ba + n ≤ x) → (x < d ∨ d + 4 ≤ x) → readByte t.mem x = readByte s.mem x

/-- R370, R374, R375: the frames that reach no descriptor: one that finds the device not receiving or fails the
filter is discarded; a descriptor outside the window sets MERR and turns the receiver off; a software-owned
descriptor is a miss, counted modulo 2^16 with MFCO at the wrap; a buffer outside the window sets MERR alone. In each
the frame is consumed and nothing else changes. The bytes the step reaches are apart from a freed region (R463, log
entry 23). -/
def Obligations.RxDropsTheFrame : Prop :=
  ∀ (s : State) (f : Frame) (fs : List Frame), s.refusal = none → s.env.rxIn = f :: fs →
    let d := s.dev.rdra.toNat + 16 * s.dev.rxCurDev
    let c := dec16 (read16 s.mem (d + 2))
    let ba := (read32 s.mem (d + 4)).toNat
    let left : Env := { s.env with rxIn := fs }
    let t := agentStep .rx s
    (s.dev.devState ≠ .running ∨ s.dev.csr0.rxon = false → t = { s with env := left }) ∧
    (s.dev.devState = .running → s.dev.csr0.rxon = true → acceptFrame s.dev f = false → t = { s with env := left }) ∧
    (s.dev.devState = .running → s.dev.csr0.rxon = true → acceptFrame s.dev f = true →
      (dmaOk s.cfg d 16 = false →
        t = { s with
          env := left, dev := { s.dev with csr0 := { s.dev.csr0 with merr := true, rxon := false } } }) ∧
      (dmaOk s.cfg d 16 = true → meetsFreed s (d, 16) = false → (read16 s.mem d).getLsbD 15 = false →
        t = { s with
          env := left
          dev := { s.dev with
            csr0 := { s.dev.csr0 with miss := true }
            csr112 := s.dev.csr112 + 1
            csr4 := { s.dev.csr4 with mfco := s.dev.csr4.mfco || s.dev.csr112 == 0xFFFF } } }) ∧
      (dmaOk s.cfg d 16 = true → meetsFreed s (d, 16) = false → (read16 s.mem d).getLsbD 15 = true → 1 ≤ c → c ≤ 4095 →
        f.bytes ≠ [] → dmaOk s.cfg ba (min f.bytes.length c.toNat) = false →
        t = { s with env := left, dev := { s.dev with csr0 := { s.dev.csr0 with merr := true } } }))

/-! ### Device: what no step of another agent does -/

/-- R360, R295: no step of the device or the environment changes a byte outside `DMA_WINDOW`, or one that does not
exist. -/
def Obligations.DeviceStaysInTheWindow : Prop :=
  ∀ (s : State) (a : AgentStep) (x : Nat), windowHas s.cfg.dmaWindow x = false ∨ memoryTop ≤ x →
    readByte (agentStep a s).mem x = readByte s.mem x

/-- R34, R99, R426: while STOPPED the device writes no memory, sends no frame and raises no flag, whatever steps agents
take, and it stays STOPPED. -/
def Obligations.StoppedDeviceIsQuiet : Prop :=
  ∀ (s : State) (as : List AgentStep), s.dev.devState = .stopped →
    (agentSteps as s).dev = s.dev ∧ (agentSteps as s).mem = s.mem ∧ (agentSteps as s).env.txOut = s.env.txOut ∧
    (agentSteps as s).faults = s.faults

/-- R5, R49, R456: a step of the device or the environment leaves the controller, RAP, the decoder mode, IADR, the
software style, IENA, MFCOM, the STOP value of CSR0 and what was delivered as they were, and clears no flag. -/
def Obligations.AgentStepFrame : Prop :=
  ∀ (s : State) (a : AgentStep),
    let t := agentStep a s
    t.ctl = s.ctl ∧ t.cfg = s.cfg ∧ t.agenda = s.agenda ∧ t.interleave = s.interleave ∧ t.result = s.result ∧
    t.portAnswers = s.portAnswers ∧ t.env.stackIn = s.env.stackIn ∧ s.env.txOut <+: t.env.txOut ∧ s.faults <+: t.faults ∧
    t.dev.rap = s.dev.rap ∧ t.dev.dwio = s.dev.dwio ∧ t.dev.csr1 = s.dev.csr1 ∧ t.dev.csr2 = s.dev.csr2 ∧
    t.dev.swstyle = s.dev.swstyle ∧ t.dev.csr0.iena = s.dev.csr0.iena ∧ t.dev.csr4.mfcom = s.dev.csr4.mfcom ∧
    t.dev.atStop = s.dev.atStop ∧
    (s.dev.csr0.babl = true → t.dev.csr0.babl = true) ∧ (s.dev.csr0.cerr = true → t.dev.csr0.cerr = true) ∧
    (s.dev.csr0.miss = true → t.dev.csr0.miss = true) ∧ (s.dev.csr0.merr = true → t.dev.csr0.merr = true) ∧
    (s.dev.csr0.rint = true → t.dev.csr0.rint = true) ∧ (s.dev.csr0.tint = true → t.dev.csr0.tint = true) ∧
    (s.dev.csr0.idon = true → t.dev.csr0.idon = true) ∧ (s.dev.csr4.mfco = true → t.dev.csr4.mfco = true)

/-! ### Controller: bring-up -/

/-- R311, R187, R290, R291, R312, and R188, which the spec marks as its own inference: an attach whose draws, held as log
entry 7 says, all succeed: the width the decoder answers in, the station
address of the PROM, the region and its contents, the device left S_RESET with RAP holding the probe value; outside the
initialization block and the two rings no byte changes. -/
def Obligations.AttachBuildsTheRegion : Prop :=
  ∀ (s : State) (base : Nat), s.Alone → s.ctl.lc = .unattached → s.env.platform.ioBaseKnown = true →
    s.env.platform.irqAvailable = true → s.env.platform.ioAvailable = true → s.env.platform.deviceAnswers = true →
    s.env.platform.alloc = some base → regionOk s.cfg base = true → s.cfg.probeValue.toNat < 256 →
    let p := s.cfg
    let mac := addressOf (p.aprom.get 0) (p.aprom.get 1) (p.aprom.get 2) (p.aprom.get 3) (p.aprom.get 4) (p.aprom.get 5)
    ∃ t, exec .attach s = .next t ∧
      t = { s with
        dev := { s.dev with
          devState := .stopped, pendingStart := false, csr0 := Csr0.clear, csr4 := ⟨false, false⟩, csr15 := 0, csr112 := 0
          atStop := false, rap := p.probeValue.extractLsb' 0 8 }
        ctl :=
          { lc := .attached, accessMode := some (if s.dev.dwio then .dword else .word), mac := some mac
            region := some ⟨base, regionSize p⟩, freed := s.ctl.freed, rxCur := 0, txCur := 0, counters := Counters.zero
            ioClaimed := true, irqRegistered := true }
        resetReads := s.resetReads + 1
        result := .ok
        mem := t.mem } ∧
      InitBlockAt p base mac t.mem ∧ (∀ i < rxLen p, RxArmed p base i t.mem) ∧
      (∀ i < txLen p, TxEmpty p base i t.mem) ∧ SameOutside base (rxBufOff p) s.mem t.mem

/-- R311, R420, and R313 and R188, which the spec marks as its own inferences: an attach that fails answers the first
failing draw's error and leaks nothing: UNATTACHED, no region, no claim. The device is untouched by an attach that fails
before the probe or finds no device; after the probe it is left S_RESET with RAP holding the probe value, and nothing
else of it changed. A base that breaks R312 refuses the run. That the draws are held in the environment, and that a
window with no device is seen by the probe alone, are the model's forms (log entry 7). -/
def Obligations.AttachFailsWithoutLeak : Prop :=
  ∀ s : State, s.Alone → s.ctl.lc = .unattached → s.ctl.region = none → s.ctl.ioClaimed = false →
    s.ctl.irqRegistered = false → s.cfg.probeValue.toNat < 256 →
    let g := s.env.platform
    let probed : Dev := { s.dev with
      devState := .stopped, pendingStart := false, csr0 := Csr0.clear, csr4 := ⟨false, false⟩, csr15 := 0, csr112 := 0
      atStop := false, rap := s.cfg.probeValue.extractLsb' 0 8 }
    let fails := fun (e : AttachError) (d : Dev) => ∃ t, exec .attach s = .next t ∧ t.result = .attachError e ∧
      t.ctl.lc = .unattached ∧ t.ctl.region = none ∧ t.ctl.ioClaimed = false ∧ t.ctl.irqRegistered = false ∧
      t.dev = d ∧ t.mem = s.mem ∧ t.env = s.env ∧ t.faults = s.faults ∧ t.refusal = none
    (g.ioBaseKnown = false → fails .noBaseAddress s.dev) ∧
    (g.ioBaseKnown = true → g.irqAvailable = false → fails .irqUnavailable s.dev) ∧
    (g.ioBaseKnown = true → g.irqAvailable = true → g.ioAvailable = false → fails .ioUnavailable s.dev) ∧
    (g.ioBaseKnown = true → g.irqAvailable = true → g.ioAvailable = true → g.deviceAnswers = false →
      fails .notRecognized s.dev) ∧
    (g.ioBaseKnown = true → g.irqAvailable = true → g.ioAvailable = true → g.deviceAnswers = true →
      (g.alloc = none → fails .noMemory probed) ∧
      ∀ base, g.alloc = some base → regionOk s.cfg base = false →
        ∃ t, exec .attach s = .next t ∧ t.refusal = some .badRegion ∧ t.dev = probed ∧ t.mem = s.mem)

/-- R314, R255, R259, R292: INITIALIZE resets the device, sets both rings up, selects style 2, gives the device the
block's address in two halves and issues INIT with IENA; outside the two rings no byte changes. -/
def Obligations.InitializeIssuesInit : Prop :=
  ∀ (s : State) (m : AccessMode) (base : Nat), s.Alone → s.Fits m → s.Holds base →
    s.ctl.lc = .attached ∨ s.ctl.lc = .disabled →
    let p := s.cfg
    ∃ t, exec .initializeOp s = .next t ∧
      t = { s with
        dev := { s.dev with
          devState := .initPending, pendingStart := false, csr0 := { Csr0.clear with init := true, iena := true }
          csr4 := ⟨false, false⟩, csr15 := 0, csr112 := 0, rap := 0, swstyle := 2, atStop := false
          csr1 := BitVec.ofNat 16 base, csr2 := BitVec.ofNat 16 (base / 65536) }
        ctl := { s.ctl with lc := .initializing, rxCur := 0, txCur := 0 }
        resetReads := s.resetReads + 1
        result := .ok
        mem := t.mem } ∧
      (∀ i < rxLen p, RxArmed p base i t.mem) ∧ (∀ i < txLen p, TxEmpty p base i t.mem) ∧
      SameOutside (base + rxRingOff) (16 * (rxLen p + txLen p)) s.mem t.mem

/-- R454 and R455, which the spec marks as its own inferences: attach, initialize, the device's fetch, and the interrupt
service that follows bring the controller and the device to RUNNING, with the invariant of R455. -/
def Obligations.BringUpReachesRunning : Prop :=
  ∀ (s : State) (base : Nat), s.Alone → s.ctl.lc = .unattached → s.env.platform.ioBaseKnown = true →
    s.env.platform.irqAvailable = true → s.env.platform.ioAvailable = true → s.env.platform.deviceAnswers = true →
    s.env.platform.alloc = some base → regionOk s.cfg base = true → s.cfg.probeValue.toNat < 256 →
    s.cfg.wf = true → s.cfg.initMode = 0 → s.ctl.freed = none →
    let p := s.cfg
    ∃ t1 t2 t, exec .attach s = .next t1 ∧ exec .initializeOp t1 = .next t2 ∧
      exec .isr (agentStep .init t2) = .next t ∧
      t.ctl.lc = .running ∧ t.dev.devState = .running ∧ t.dev.csr0.rxon = true ∧ t.dev.csr0.txon = true ∧
      (∀ i < rxLen p, RxArmed p base i t.mem) ∧ (∀ i < txLen p, TxEmpty p base i t.mem) ∧
      t.ctl.rxCur = 0 ∧ t.dev.rxCurDev = 0 ∧ t.ctl.txCur = 0 ∧ t.dev.txCurDev = 0 ∧
      t.dev.rdra.toNat = base + rxRingOff ∧ t.dev.tdra.toNat = base + txRingOff p ∧
      some t.dev.padr = t.ctl.mac ∧ t.dev.csr15 = 0 ∧ t.faults = s.faults

/-- R310: an operation in a state it is not legal in answers `Err(BadState)` and changes nothing else; DISABLE and RELEASE
answer `Ok` there, and a dispatch with no handler registered is not invoked (the model's form, log entry 15). -/
def Obligations.IllegalOperationsChangeNothing : Prop :=
  ∀ s : State, s.refusal = none →
    (s.ctl.lc ≠ .unattached → exec .attach s = .next { s with result := .badState }) ∧
    (s.ctl.lc ≠ .attached → s.ctl.lc ≠ .disabled → exec .initializeOp s = .next { s with result := .badState }) ∧
    (s.ctl.lc ≠ .initializing → s.ctl.lc ≠ .running →
      ∀ b, exec (.transmit b) s = .next { s with result := .txError .badState }) ∧
    (s.ctl.lc = .unattached ∨ s.ctl.lc = .attached ∨ s.ctl.lc = .released →
      exec .receive s = .next { s with result := .badState }) ∧
    (s.ctl.lc = .disabled ∨ s.ctl.lc = .unattached ∨ s.ctl.lc = .released →
      exec .disable s = .next { s with result := .ok }) ∧
    (s.ctl.lc = .unattached ∨ s.ctl.lc = .released → exec .release s = .next { s with result := .ok }) ∧
    (s.ctl.irqRegistered = false → exec .isr s = .next { s with result := .notInvoked })

/-! ### Controller: interrupt service -/

/-- R315 on IDON: the handler acknowledges the status, writes START with IENA and moves to RUNNING; RXON and TXON follow
the MODE word; the error flags it read are counted. -/
def Obligations.IsrStartsTheDevice : Prop :=
  ∀ (s : State) (m : AccessMode), s.Alone → s.Fits m → s.dev.Inv → s.ctl.irqRegistered = true →
    s.ctl.lc = .initializing → s.dev.devState = .inited → s.dev.csr0.idon = true → s.dev.csr0.rint = false →
    let up := fun (b : Bool) (n : Word) => if b then n + 1 else n
    exec .isr s = .next { s with
      dev := { s.dev with
        devState := .running
        rap := 0
        csr4 := ⟨false, s.dev.csr4.mfcom⟩
        csr0 := { Csr0.clear with
          iena := true, init := true, strt := true
          rxon := !s.dev.csr15.getLsbD 0, txon := !s.dev.csr15.getLsbD 1 } }
      ctl := { s.ctl with
        lc := .running
        counters := { s.ctl.counters with
          cntBabl := up s.dev.csr0.babl s.ctl.counters.cntBabl
          cntCerr := up s.dev.csr0.cerr s.ctl.counters.cntCerr
          cntMiss := up s.dev.csr0.miss s.ctl.counters.cntMiss
          cntMerr := up s.dev.csr0.merr s.ctl.counters.cntMerr
          cntMfco := up s.dev.csr4.mfco s.ctl.counters.cntMfco } }
      result := .serviced }

/-- R315 with neither IDON to act on nor RINT, on a device that is not STOPPED: the handler acknowledges every flag it read,
counts the error flags, and leaves the device in its run state with its interrupt enable. R315, R415: whatever device
and environment steps fall between its read of CSR0 and its write-back (leaving the state `u`), a flag raised there stays
set, for it is not in the value written back; MFCO is read later, so it is acknowledged and counted. The written-back
INIT and TDMD are commands (R205, R207): after a fetch that failed there INIT is accepted anew, and a demand the device
took there is set again. -/
def Obligations.IsrAcknowledgesAndCounts : Prop :=
  ∀ (s : State) (m : AccessMode), s.refusal = none → s.Fits m → s.dev.Inv → s.ctl.irqRegistered = true →
    s.dev.devState ≠ .stopped → (s.dev.csr0.idon = false ∨ s.ctl.lc ≠ .initializing) → s.dev.csr0.rint = false →
    let up := fun (b : Bool) (n : Word) => if b then n + 1 else n
    (s.interleave = [] → exec .isr s = .next { s with
      dev := { s.dev with
        rap := 4
        csr4 := ⟨false, s.dev.csr4.mfcom⟩
        csr0 := { s.dev.csr0 with
          babl := false, cerr := false, miss := false, merr := false, rint := false, tint := false, idon := false } }
      ctl := { s.ctl with
        counters := { s.ctl.counters with
          cntBabl := up s.dev.csr0.babl s.ctl.counters.cntBabl
          cntCerr := up s.dev.csr0.cerr s.ctl.counters.cntCerr
          cntMiss := up s.dev.csr0.miss s.ctl.counters.cntMiss
          cntMerr := up s.dev.csr0.merr s.ctl.counters.cntMerr
          cntMfco := up s.dev.csr4.mfco s.ctl.counters.cntMfco } }
      result := .serviced }) ∧
    ∀ as : List AgentStep, s.interleave = [[], as.map .agent] →
      let u := agentSteps as { s with dev := { s.dev with rap := 0 }, interleave := [] }
      u.refusal = none →
      exec .isr s = .next { u with
        dev := { u.dev with
          rap := 4
          devState := if u.dev.devState = .stopped then .initPending else u.dev.devState
          csr4 := ⟨false, u.dev.csr4.mfcom⟩
          csr0 := { u.dev.csr0 with
            babl := u.dev.csr0.babl && !s.dev.csr0.babl
            cerr := u.dev.csr0.cerr && !s.dev.csr0.cerr
            miss := u.dev.csr0.miss && !s.dev.csr0.miss
            merr := u.dev.csr0.merr && !s.dev.csr0.merr
            tint := u.dev.csr0.tint && !s.dev.csr0.tint
            idon := u.dev.csr0.idon && !s.dev.csr0.idon
            tdmd := u.dev.csr0.tdmd || (s.dev.csr0.tdmd && u.dev.csr0.txon)
            init := true } }
        ctl := { s.ctl with
          counters := { s.ctl.counters with
            cntBabl := up s.dev.csr0.babl s.ctl.counters.cntBabl
            cntCerr := up s.dev.csr0.cerr s.ctl.counters.cntCerr
            cntMiss := up s.dev.csr0.miss s.ctl.counters.cntMiss
            cntMerr := up s.dev.csr0.merr s.ctl.counters.cntMerr
            cntMfco := up u.dev.csr4.mfco s.ctl.counters.cntMfco } }
        result := .serviced }

/-- R315, R262, R256, R100, and R265, which the spec marks as its own inference: a service with RINT drains the completed
slots from the cursor on, up to the first one the device owns: the frames without error are delivered in ring order, the ones with an error are dropped without
stopping the drain, every slot taken is armed again, the cursor is past them, and no other byte of memory changes. A
slot of the list is a payload, or none for a slot with an error. -/
def Obligations.IsrDrainsInRingOrder : Prop :=
  ∀ (s : State) (m : AccessMode) (base : Nat) (slots : List (Option (List Byte))), s.Alone → s.Fits m → s.dev.Inv →
    s.Holds base → s.cfg.wf = true → s.ctl.irqRegistered = true → s.ctl.lc = .running → s.dev.devState = .running →
    s.dev.csr0.rint = true → slots.length ≤ rxLen s.cfg →
    let p := s.cfg
    let at_ := fun j => (s.ctl.rxCur + j) % rxLen p
    (∀ j b, slots[j]? = some (some b) → RxHolds p base (at_ j) s.mem b) →
    (∀ j, slots[j]? = some none →
      (read16 s.mem (rxDescAddr base (at_ j))).getLsbD 15 = false ∧
      (read16 s.mem (rxDescAddr base (at_ j))).getLsbD 14 = true) →
    (slots.length < rxLen p → (read16 s.mem (rxDescAddr base (at_ slots.length))).getLsbD 15 = true) →
    ∃ t, exec .isr s = .next t ∧
      t.env = { s.env with stackIn := s.env.stackIn ++ slots.filterMap id } ∧
      t.ctl.rxCur = at_ slots.length ∧ t.ctl.txCur = s.ctl.txCur ∧ t.ctl.lc = .running ∧
      t.ctl.counters.rxDelivered = s.ctl.counters.rxDelivered + BitVec.ofNat 32 (slots.filterMap id).length ∧
      t.ctl.counters.rxDropped = s.ctl.counters.rxDropped + BitVec.ofNat 32 (slots.countP Option.isNone) ∧
      (∀ j < slots.length, RxArmed p base (at_ j) t.mem) ∧
      (∀ x, (∀ j < slots.length, x < rxDescAddr base (at_ j) ∨ rxDescAddr base (at_ j) + 16 ≤ x) →
        readByte t.mem x = readByte s.mem x) ∧
      t.dev = { s.dev with
        rap := 4
        csr4 := ⟨false, s.dev.csr4.mfcom⟩
        csr0 := { s.dev.csr0 with
          babl := false, cerr := false, miss := false, merr := false, rint := false, tint := false, idon := false } } ∧
      t.faults = s.faults ∧ t.refusal = none ∧ t.cfg = s.cfg

/-- R263 (the model's bound, log entry 18): the number of takes `drainRx` allows is more than the drain can make, from
every state and whatever agents do in between: allowing more changes nothing. -/
def Obligations.DrainNeverRunsOut : Prop :=
  ∀ (s : State) (k : State → Out) (n : Nat), s.refusal = none → drainBound s ≤ n → drainLoop n s k = drainRx s k

/-- R315, R316, R464, R363, and R216, which the spec marks as its own inference: the service of a STOPPED device writes STOP
back: the device stays STOPPED with every CSR0 flag and IENA clear, no interrupt is left, and the controller keeps its
state. It is the service after a failed fetch (the controller stays INITIALIZING) and a spurious one in ATTACHED or
DISABLED. MERR and MFCO, the only flags such a device can have, are counted. -/
def Obligations.FailedFetchSilencesTheDevice : Prop :=
  ∀ (s : State) (m : AccessMode), s.Alone → s.Fits m → s.dev.Inv → s.ctl.irqRegistered = true →
    s.dev.devState = .stopped →
    let up := fun (b : Bool) (n : Word) => if b then n + 1 else n
    ∃ t, exec .isr s = .next t ∧
      t = { s with
        dev := { s.dev with rap := 4, csr0 := Csr0.clear, csr4 := ⟨false, s.dev.csr4.mfcom⟩, atStop := false }
        ctl := { s.ctl with
          counters := { s.ctl.counters with
            cntMerr := up s.dev.csr0.merr s.ctl.counters.cntMerr
            cntMfco := up s.dev.csr4.mfco s.ctl.counters.cntMfco } }
        result := .serviced } ∧
      irq t.dev = false ∧ csrRead t.dev 0 = 0x0004

/-! ### Controller: transmit and receive -/

/-- R320, R258, R207: a transmit with a free slot: the payload in the slot's buffer, the descriptor handed to the
device, the cursor and counter moved, and the doorbell rung, which the device takes only when RUNNING with TXON; no byte
of memory but the descriptor's and the payload's changes. -/
def Obligations.TransmitPostsTheFrame : Prop :=
  ∀ (s : State) (m : AccessMode) (base : Nat) (b : List Byte), s.Alone → s.Fits m → s.Holds base →
    s.ctl.lc = .initializing ∨ s.ctl.lc = .running → 1 ≤ b.length → b.length ≤ s.cfg.bufferSize →
    let i := s.ctl.txCur
    let d := txDescAddr s.cfg base i
    let buf := txBufAddr s.cfg base i
    (read16 s.mem d).getLsbD 15 = false →
    ∃ t, exec (.transmit b) s = .next t ∧
      t = { s with
        dev := { s.dev with
          rap := 0
          atStop := false
          csr0 := { s.dev.csr0 with
            iena := true, tdmd := s.dev.csr0.tdmd || (s.dev.devState == .running && s.dev.csr0.txon) } }
        ctl := { s.ctl with
          txCur := (i + 1) % txLen s.cfg
          counters := { s.ctl.counters with txPosted := s.ctl.counters.txPosted + 1 } }
        result := .ok
        mem := t.mem } ∧
      TxFilled s.cfg base i b t.mem ∧
      ∀ x, (x < d ∨ d + 16 ≤ x) → (x < buf ∨ buf + b.length ≤ x) → readByte t.mem x = readByte s.mem x

/-- R320, R258, R260, R420: a payload of length 0 or above `BUFFER_SIZE` is `BadLength`, whoever owns the slot; with a
legal length and the slot at the cursor device-owned it is `NotOwned`; each is counted, and memory, the cursor and the
device are unchanged. -/
def Obligations.TransmitThatPostsNothing : Prop :=
  ∀ (s : State) (m : AccessMode) (base : Nat) (b : List Byte), s.refusal = none → s.Fits m → s.Holds base →
    s.ctl.lc = .initializing ∨ s.ctl.lc = .running →
    (b = [] ∨ s.cfg.bufferSize < b.length →
      exec (.transmit b) s = .next { s with
        ctl := { s.ctl with counters := { s.ctl.counters with txBadLength := s.ctl.counters.txBadLength + 1 } }
        result := .txError .badLength }) ∧
    (b ≠ [] → b.length ≤ s.cfg.bufferSize →
      (read16 s.mem (txDescAddr s.cfg base s.ctl.txCur)).getLsbD 15 = true →
      exec (.transmit b) s = .next { s with
        ctl := { s.ctl with counters := { s.ctl.counters with txFull := s.ctl.counters.txFull + 1 } }
        result := .txError .notOwned })

/-- R256, R255: RECEIVE on a completed frame answers its bytes, arms the slot again, moves the cursor and counts the
delivery; no byte of memory but the descriptor's changes. -/
def Obligations.ReceiveDeliversTheFrame : Prop :=
  ∀ (s : State) (base : Nat) (b : List Byte), s.refusal = none → s.Holds base → s.cfg.wf = true →
    s.ctl.lc = .initializing ∨ s.ctl.lc = .running ∨ s.ctl.lc = .disabled →
    RxHolds s.cfg base s.ctl.rxCur s.mem b →
    ∃ t, exec .receive s = .next t ∧
      t = { s with
        ctl := { s.ctl with
          rxCur := (s.ctl.rxCur + 1) % rxLen s.cfg
          counters := { s.ctl.counters with rxDelivered := s.ctl.counters.rxDelivered + 1 } }
        result := .packet b
        mem := t.mem } ∧
      RxArmed s.cfg base s.ctl.rxCur t.mem ∧ SameOutside (rxDescAddr base s.ctl.rxCur) 16 s.mem t.mem

/-- R256, R257, R419: RECEIVE on a device-owned slot is `Empty` and changes nothing; on a software-owned slot with an
error, without STP and ENP, or with a length its buffer cannot hold it is `Dropped`, counted by cause, and the slot is
armed again and the cursor moved all the same. -/
def Obligations.ReceiveDropsOrFindsNothing : Prop :=
  ∀ (s : State) (base : Nat), s.refusal = none → s.Holds base →
    s.ctl.lc = .initializing ∨ s.ctl.lc = .running ∨ s.ctl.lc = .disabled →
    let st := read16 s.mem (rxDescAddr base s.ctl.rxCur)
    let n := dec16 (read16 s.mem (rxDescAddr base s.ctl.rxCur + 2))
    let c := s.ctl.counters
    let up := fun (b : Bool) (n : Word) => if b then n + 1 else n
    let drops := fun (c : Counters) => ∃ t, exec .receive s = .next t ∧
      t = { s with
        ctl := { s.ctl with rxCur := (s.ctl.rxCur + 1) % rxLen s.cfg, counters := c }
        result := .dropped
        mem := t.mem } ∧
      RxArmed s.cfg base s.ctl.rxCur t.mem ∧ SameOutside (rxDescAddr base s.ctl.rxCur) 16 s.mem t.mem
    (st.getLsbD 15 = true → exec .receive s = .next { s with result := .empty }) ∧
    (st.getLsbD 15 = false → st.getLsbD 14 = true →
      drops { c with
        rxFram := up (st.getLsbD 13) c.rxFram
        rxOflo := up (st.getLsbD 12) c.rxOflo
        rxCrc := up (st.getLsbD 11) c.rxCrc
        rxBuff := up (st.getLsbD 10) c.rxBuff
        rxErrOther := up (st.extractLsb' 10 4 == 0) c.rxErrOther
        rxDropped := c.rxDropped + 1 }) ∧
    (st.getLsbD 15 = false → st.getLsbD 14 = false → st.getLsbD 9 = false ∨ st.getLsbD 8 = false →
      drops { c with rxUnsupported := c.rxUnsupported + 1, rxDropped := c.rxDropped + 1 }) ∧
    (st.getLsbD 15 = false → st.getLsbD 14 = false → st.getLsbD 9 = true → st.getLsbD 8 = true →
      n < 1 ∨ (s.cfg.bufferSize : Int) < n →
      drops { c with rxBuff := c.rxBuff + 1, rxDropped := c.rxDropped + 1 })

/-- R264, which the spec marks as its own inference: a posted payload that the device then sends with outcome OK is on
the wire unmodified, and is still in the slot's buffer. -/
def Obligations.TransmitRoundTrip : Prop :=
  ∀ (s : State) (m : AccessMode) (base : Nat) (b : List Byte) (c : Bool), s.Alone → s.Fits m → s.Holds base →
    s.cfg.wf = true → regionOk s.cfg base = true → s.ctl.freed = none → s.ctl.lc = .running →
    s.dev.devState = .running → s.dev.csr0.txon = true → s.dev.tdra.toNat = base + txRingOff s.cfg → s.dev.txCurDev = s.ctl.txCur →
    1 ≤ b.length → b.length ≤ s.cfg.bufferSize →
    (read16 s.mem (txDescAddr s.cfg base s.ctl.txCur)).getLsbD 15 = false →
    ∃ t, exec (.transmit b) s = .next t ∧
      (agentStep (.tx .ok c) t).env.txOut = s.env.txOut ++ [b] ∧
      readBytes (agentStep (.tx .ok c) t).mem (txBufAddr s.cfg base s.ctl.txCur) b.length = b ∧
      read16 (agentStep (.tx .ok c) t).mem (txDescAddr s.cfg base s.ctl.txCur) = 0x0300

/-- R370, R256: a frame without error that the device stores in an armed slot is what RECEIVE then answers. -/
def Obligations.ReceiveRoundTrip : Prop :=
  ∀ (s : State) (base : Nat) (f : Frame) (fs : List Frame), s.refusal = none → s.Holds base → s.cfg.wf = true →
    regionOk s.cfg base = true → s.ctl.freed = none →
    s.ctl.lc = .initializing ∨ s.ctl.lc = .running ∨ s.ctl.lc = .disabled →
    s.dev.devState = .running → s.dev.csr0.rxon = true → s.dev.rdra.toNat = base + rxRingOff →
    s.dev.rxCurDev = s.ctl.rxCur → RxArmed s.cfg base s.ctl.rxCur s.mem → s.env.rxIn = f :: fs →
    acceptFrame s.dev f = true → f.framErr = false → f.ofloErr = false → f.crcErr = false → f.bytes ≠ [] →
    f.bytes.length ≤ s.cfg.bufferSize →
    ∃ t, exec .receive (agentStep .rx s) = .next t ∧ t.result = .packet f.bytes ∧ t.env.rxIn = fs ∧
      RxArmed s.cfg base s.ctl.rxCur t.mem ∧ t.faults = s.faults

/-! ### Controller: disable and release -/

/-- R321, R210: DISABLE in a state that asks for it stops the device by a CSR0 write and moves to DISABLED; nothing else
changes but RAP. -/
def Obligations.DisableStopsTheDevice : Prop :=
  ∀ (s : State) (m : AccessMode), s.Alone → s.Fits m →
    s.ctl.lc = .attached ∨ s.ctl.lc = .initializing ∨ s.ctl.lc = .running →
    exec .disable s = .next { s with
      dev := { s.dev with rap := 0, devState := .stopped, pendingStart := false, csr0 := Csr0.clear, atStop := true }
      ctl := { s.ctl with lc := .disabled }
      result := .ok }

/-- R322: RELEASE disables first unless DISABLED, then gives back the IRQ, the region and the ports. R463, whose last
sentence the spec marks as its own inference: after it no step of the device or the environment touches memory; from
DISABLED, where RELEASE writes no STOP, this is said of a device that is still STOPPED, as DISABLE left it. R94: whatever
the host does afterwards, no step of the device or the environment writes a byte of the freed region or depends on one;
that the steps that would do so do not occur is the model's choice (log entry 23). -/
def Obligations.ReleaseGivesEverythingBack : Prop :=
  (∀ (s : State) (m : AccessMode), s.Alone → s.Fits m →
    (s.ctl.lc = .attached ∨ s.ctl.lc = .initializing ∨ s.ctl.lc = .running →
      ∃ t, exec .release s = .next t ∧
        t = { s with
          dev := { s.dev with rap := 0, devState := .stopped, pendingStart := false, csr0 := Csr0.clear, atStop := true }
          ctl := { s.ctl with
            lc := .released, irqRegistered := false, freed := s.ctl.region, region := none, ioClaimed := false }
          result := .ok } ∧
        ∀ as, (agentSteps as t).mem = s.mem) ∧
    (s.ctl.lc = .disabled →
      ∃ t, exec .release s = .next t ∧
        t = { s with
          ctl := { s.ctl with
            lc := .released, irqRegistered := false, freed := s.ctl.region, region := none, ioClaimed := false }
          result := .ok } ∧
        (s.dev.devState = .stopped → ∀ as, (agentSteps as t).mem = s.mem))) ∧
  ∀ (s : State) (g : Region) (a : AgentStep) (m : Memory), s.ctl.freed = some g →
    let t := agentStep a s
    let t' := agentStep a { s with mem := m }
    (∀ x, g.base ≤ x → x < g.base + g.size → readByte t.mem x = readByte s.mem x) ∧
    (SameOutside g.base g.size s.mem m → t' = { t with mem := t'.mem } ∧ SameOutside g.base g.size t.mem t'.mem)

/-! ### The whole machine -/

/-- Every step keeps the invariant of the machine: memory in canonical form and inside the address space, the device's
registers, flags and run state in step, the environment's lists, and the controller's cursors, region and claims. -/
def Obligations.StepKeepsTheInvariant : Prop :=
  ∀ s t : State, s.Inv → step s = .next t → t.Inv

/-- The H_RESET state (R450) has the invariant, for any parameters and platform, and so has the reset state. Its clauses on
`rlen`, `tlen`, `rdra`, `tdra` and the device cursors hold of the values the model chose (log entry 1), and those on the
software cursors of the values of log entry 2: the spec leaves them unspecified there (R36, R37, I13). -/
def Obligations.ResetHasTheInvariant : Prop :=
  (∀ (p : Params) (g : Platform), (State.hReset p g).Inv) ∧ State.reset.Inv

/-- R450: the H_RESET state as the port requests see it: word mode, RAP 0, CSR0 0x0004, every other register the rule
gives a value, and the controller and environment at the start of a run. -/
def Obligations.ResetValues : Prop :=
  ∀ (p : Params) (g : Platform),
    let s := State.hReset p g
    s.dev.dwio = false ∧ s.dev.rap = 0 ∧ csrRead s.dev 0 = 0x0004 ∧ csrRead s.dev 4 = 0 ∧ csrRead s.dev 15 = 0 ∧
    csrRead s.dev 112 = 0 ∧ bcrRead s.dev 20 = 0 ∧ s.dev.devState = .stopped ∧ s.dev.pendingStart = false ∧
    irq s.dev = false ∧ s.ctl.lc = .unattached ∧ s.ctl.region = none ∧ s.ctl.ioClaimed = false ∧
    s.ctl.irqRegistered = false ∧ s.ctl.accessMode = none ∧ s.ctl.mac = none ∧ s.ctl.counters = Counters.zero ∧
    s.env.txOut = [] ∧ s.env.stackIn = [] ∧ s.faults = [] ∧ s.refusal = none

/-- R40, R42, I28: in a state with the invariant no step answers a fault: no operation reaches for an access mode or a
region it does not have. -/
def Obligations.NoStepFaults : Prop :=
  ∀ (s : State) (f : Fault), s.Inv → step s ≠ .fault f

/-- R22, R39, R47, R6: what no step takes back: dword mode, the recorded violations, what was sent and delivered, the
parameters, the answers of the host's requests inside operations (the model's own field, log entry 9), and the state
RELEASED. R94, with log entry 23: in RELEASED the freed region keeps its bytes, whatever comes. -/
def Obligations.StepNeverTakesBack : Prop :=
  ∀ s t : State, step s = .next t →
    (s.dev.dwio = true → t.dev.dwio = true) ∧ s.faults <+: t.faults ∧ s.env.txOut <+: t.env.txOut ∧
    s.env.stackIn <+: t.env.stackIn ∧ s.portAnswers <+: t.portAnswers ∧ t.cfg = s.cfg ∧
    (s.ctl.lc = .released → t.ctl.lc = .released) ∧
    (s.ctl.lc ≠ .unattached → t.ctl.lc ≠ .unattached) ∧
    (∀ g, s.ctl.lc = .released → s.ctl.freed = some g →
      t.ctl.freed = some g ∧ ∀ x, g.base ≤ x → x < g.base + g.size → readByte t.mem x = readByte s.mem x)
end

