-- ==== Sys2Proof/Laws/Memory.lean ====
section
/-!
SUPPORT. Laws/Memory.lean: read after write, writes leave other bytes alone, and every memory operation keeps the canonical
form. The lemmas hold of every memory, canonical or not, unless they say otherwise.
-/

namespace Sys2Proof.Machine

/-! ### One byte -/

@[simp] theorem lookup_insert (x : Nat) (v : Byte) (m : Memory) (y : Nat) :
    Memory.lookup (Memory.insert x v m) y = if y = x then some v else Memory.lookup m y := by
  induction m with
  | nil => simp [Memory.insert, Memory.lookup, eq_comm]
  | cons c m ih =>
    obtain ⟨a, b⟩ := c
    simp only [Memory.insert]
    split_ifs with h1 h2
    all_goals simp only [Memory.lookup, ih]
    all_goals split_ifs <;> first | rfl | omega

@[simp] theorem readByte_insert (x : Nat) (v : Byte) (m : Memory) (y : Nat) :
    readByte (Memory.insert x v m) y = if y = x then v else readByte m y := by
  simp only [readByte, lookup_insert]; split_ifs <;> rfl

/-! ### Byte strings -/

theorem readByte_writeBytes_outside (bs : List Byte) (m : Memory) (a y : Nat)
    (h : y < a ∨ a + bs.length ≤ y) : readByte (writeBytes m a bs) y = readByte m y := by
  induction bs generalizing m a with
  | nil => rfl
  | cons b bs ih =>
    simp only [List.length_cons] at h
    rw [writeBytes, ih _ _ (by omega), readByte_insert, if_neg (by omega)]

theorem readByte_writeBytes_inside (bs : List Byte) (m : Memory) (a k : Nat) (h : k < bs.length) :
    readByte (writeBytes m a bs) (a + k) = bs[k] := by
  induction bs generalizing m a k with
  | nil => simp at h
  | cons b bs ih =>
    simp only [writeBytes]
    cases k with
    | zero =>
      rw [readByte_writeBytes_outside _ _ _ _ (by omega)]; simp
    | succ k =>
      have := ih (Memory.insert a b m) (a + 1) k (by simpa using h)
      rw [show a + (k + 1) = a + 1 + k by omega, this]; simp

@[simp] theorem readBytes_length (m : Memory) (a n : Nat) : (readBytes m a n).length = n := by
  induction n generalizing a with
  | zero => rfl
  | succ n ih => simp [readBytes, ih]

theorem readBytes_congr {m m' : Memory} (a n : Nat) (h : ∀ y, a ≤ y → y < a + n → readByte m y = readByte m' y) :
    readBytes m a n = readBytes m' a n := by
  induction n generalizing a with
  | zero => rfl
  | succ n ih =>
    simp only [readBytes]
    rw [h a (by omega) (by omega), ih (a + 1) fun y h1 h2 => h y (by omega) (by omega)]

theorem readBytes_writeBytes_same (bs : List Byte) (m : Memory) (a : Nat) :
    readBytes (writeBytes m a bs) a bs.length = bs := by
  induction bs generalizing m a with
  | nil => rfl
  | cons b bs ih =>
    simp only [List.length_cons, readBytes, writeBytes]
    rw [readByte_writeBytes_outside _ _ _ _ (by omega), ih]; simp

theorem readBytes_writeBytes_outside (bs : List Byte) (m : Memory) (a b n : Nat)
    (h : b + n ≤ a ∨ a + bs.length ≤ b) : readBytes (writeBytes m a bs) b n = readBytes m b n :=
  readBytes_congr _ _ fun _ _ _ => readByte_writeBytes_outside _ _ _ _ (by omega)

/-! ### Little-endian values -/

@[simp] theorem halfBytes_length (v : Half) : (halfBytes v).length = 2 := rfl

@[simp] theorem wordBytes_length (v : Word) : (wordBytes v).length = 4 := rfl

@[simp] theorem doubleBytes_length (v : BitVec 64) : (doubleBytes v).length = 8 := rfl

/-- The two bytes of a `u16`, put together again. -/
theorem half_of_bytes (v : Half) : (v.extractLsb' 8 8 ++ v.extractLsb' 0 8 : Half) = v := by
  apply BitVec.eq_of_getLsbD_eq; intro i hi
  simp only [BitVec.getLsbD_append, BitVec.getLsbD_extractLsb']
  split_ifs with h
  · simp [h]
  · have : i - 8 < 8 := by omega
    simp [this]; congr 1; omega

/-- The two low bytes of a `u32` are its low half. -/
theorem low_half_of_bytes (v : Word) :
    (v.extractLsb' 8 8 ++ v.extractLsb' 0 8 : Half) = v.extractLsb' 0 16 := by
  apply BitVec.eq_of_getLsbD_eq; intro i hi
  simp only [BitVec.getLsbD_append, BitVec.getLsbD_extractLsb']
  split_ifs with h
  · simp [h, hi]
  · have : i - 8 < 8 := by omega
    simp [this, hi]; congr 1; omega

/-- The four bytes of a `u32`, put together again. -/
theorem word_of_bytes (v : Word) :
    (v.extractLsb' 24 8 ++ v.extractLsb' 16 8 ++ v.extractLsb' 8 8 ++ v.extractLsb' 0 8 : Word) = v := by
  apply BitVec.eq_of_getLsbD_eq; intro i hi
  simp only [BitVec.getLsbD_append, BitVec.getLsbD_extractLsb']
  have h32 : i < 32 := hi
  by_cases h1 : i < 8
  · simp [h1]
  by_cases h2 : i - 8 < 8
  · simp [h1, h2]; congr 1; omega
  by_cases h3 : i - 8 - 8 < 8
  · simp [h1, h2, h3]; congr 1; omega
  have h4 : i - 8 - 8 - 8 < 8 := by omega
  simp [h1, h2, h3, h4]; congr 1; omega

theorem read16_congr {m m' : Memory} {a : Nat} (h0 : readByte m a = readByte m' a)
    (h1 : readByte m (a + 1) = readByte m' (a + 1)) : read16 m a = read16 m' a := by
  simp only [read16, h0, h1]

theorem read16_writeBytes_outside (bs : List Byte) (m : Memory) (a d : Nat)
    (h : d + 2 ≤ a ∨ a + bs.length ≤ d) : read16 (writeBytes m a bs) d = read16 m d :=
  read16_congr (readByte_writeBytes_outside _ _ _ _ (by omega))
    (readByte_writeBytes_outside _ _ _ _ (by omega))

theorem read32_writeBytes_outside (bs : List Byte) (m : Memory) (a d : Nat)
    (h : d + 4 ≤ a ∨ a + bs.length ≤ d) : read32 (writeBytes m a bs) d = read32 m d := by
  simp only [read32, read16_writeBytes_outside bs m a d (by omega),
    read16_writeBytes_outside bs m a (d + 2) (by omega)]

@[simp] theorem read16_writeBytes_half (m : Memory) (a : Nat) (v : Half) :
    read16 (writeBytes m a (halfBytes v)) a = v := by
  have h0 := readByte_writeBytes_inside (halfBytes v) m a 0 (by simp)
  have h1 := readByte_writeBytes_inside (halfBytes v) m a 1 (by simp)
  simp only [Nat.add_zero] at h0
  simp only [read16, h0, h1]
  exact half_of_bytes v

@[simp] theorem read32_writeBytes_word (m : Memory) (a : Nat) (v : Word) :
    read32 (writeBytes m a (wordBytes v)) a = v := by
  have h0 := readByte_writeBytes_inside (wordBytes v) m a 0 (by simp)
  have h1 := readByte_writeBytes_inside (wordBytes v) m a 1 (by simp)
  have h2 := readByte_writeBytes_inside (wordBytes v) m a 2 (by simp)
  have h3 := readByte_writeBytes_inside (wordBytes v) m a 3 (by simp)
  simp only [Nat.add_zero] at h0
  simp only [read32, read16, h0, h1, h2, Nat.add_assoc, Nat.reduceAdd, h3]
  have hw := word_of_bytes v
  simp only [wordBytes, List.getElem_cons_zero, List.getElem_cons_succ]
  rw [BitVec.append_assoc] at hw
  exact hw

@[simp] theorem read16_write16 (m : Memory) (a : Nat) (v : Half) : read16 (write16 m a v) a = v :=
  read16_writeBytes_half m a v

theorem read16_write16_outside (m : Memory) (a d : Nat) (v : Half) (h : d + 2 ≤ a ∨ a + 2 ≤ d) :
    read16 (write16 m a v) d = read16 m d :=
  read16_writeBytes_outside _ _ _ _ (by simpa using h)

theorem readByte_write16_outside (m : Memory) (a y : Nat) (v : Half) (h : y < a ∨ a + 2 ≤ y) :
    readByte (write16 m a v) y = readByte m y :=
  readByte_writeBytes_outside _ _ _ _ (by simpa using h)

/-! ### Canonical form -/

/-- The addresses rise strictly, as a statement about every pair of neighbours. -/
theorem wf_iff_pairwise (m : Memory) : Memory.wf m = true ↔ m.Pairwise fun c e => c.1 < e.1 := by
  induction m with
  | nil => simp [Memory.wf]
  | cons c m ih =>
    obtain ⟨a, b⟩ := c
    cases m with
    | nil => simp [Memory.wf]
    | cons e m =>
      obtain ⟨a', b'⟩ := e
      simp only [Memory.wf, Bool.and_eq_true, decide_eq_true_eq, ih]
      simp only [List.pairwise_cons, List.mem_cons]
      constructor
      · rintro ⟨h, h1, h2⟩
        refine ⟨fun x hx => ?_, h1, h2⟩
        rcases hx with rfl | hx
        · exact h
        · exact Nat.lt_trans h (h1 x hx)
      · rintro ⟨h, h1, h2⟩
        exact ⟨h _ (Or.inl rfl), h1, h2⟩

theorem mem_insert {x : Nat} {v : Byte} {m : Memory} {c : Host.Cell} (h : c ∈ Memory.insert x v m) :
    c = (x, v) ∨ c ∈ m := by
  induction m with
  | nil => simpa [Memory.insert] using h
  | cons e m ih =>
    obtain ⟨a, b⟩ := e
    simp only [Memory.insert] at h
    split_ifs at h
    · simpa using h
    · rcases List.mem_cons.1 h with h | h
      · exact Or.inl h
      · exact Or.inr (List.mem_cons_of_mem _ h)
    · rcases List.mem_cons.1 h with rfl | h
      · exact Or.inr (List.mem_cons_self ..)
      · exact (ih h).imp id (List.mem_cons_of_mem _)

/-- Writing a byte keeps the canonical form. -/
theorem insert_keeps_wf (x : Nat) (v : Byte) (m : Memory) (h : Memory.wf m = true) :
    Memory.wf (Memory.insert x v m) = true := by
  rw [wf_iff_pairwise] at h ⊢
  induction m with
  | nil => simp [Memory.insert]
  | cons e m ih =>
    obtain ⟨a, b⟩ := e
    obtain ⟨h1, h2⟩ := List.pairwise_cons.1 h
    simp only [Memory.insert]
    split_ifs with hlt heq
    · refine List.pairwise_cons.2 ⟨fun c hc => ?_, h⟩
      rcases List.mem_cons.1 hc with rfl | hc
      · exact hlt
      · exact Nat.lt_trans hlt (h1 c hc)
    · subst heq; exact List.pairwise_cons.2 ⟨h1, h2⟩
    · refine List.pairwise_cons.2 ⟨fun c hc => ?_, ih h2⟩
      rcases mem_insert hc with rfl | hc
      · show a < x; omega
      · exact h1 c hc

/-- Writing a byte string keeps the canonical form. -/
theorem writeBytes_keeps_wf (bs : List Byte) (m : Memory) (a : Nat) (h : Memory.wf m = true) :
    Memory.wf (writeBytes m a bs) = true := by
  induction bs generalizing m a with
  | nil => exact h
  | cons b bs ih => exact ih _ _ (insert_keeps_wf a b m h)

/-- Writing a `u16` keeps the canonical form. -/
theorem write16_keeps_wf (m : Memory) (a : Nat) (v : Half) (h : Memory.wf m = true) :
    Memory.wf (write16 m a v) = true :=
  writeBytes_keeps_wf _ _ _ h

/-- The memory of the H_RESET state is canonical, for any parameters and platform. -/
theorem hReset_mem_wf (p : Params) (pl : Platform) : Memory.wf (State.hReset p pl).mem = true := rfl

/-- The memory of the reset state is canonical. -/
theorem reset_mem_wf : Memory.wf State.reset.mem = true := rfl

end Sys2Proof.Machine
end

