-- ==== Sys2Proof/Laws/State.lean ====
section
/-!
SUPPORT. Laws/State.lean: for each update of the state, what each field is after it. Every lemma is true by unfolding,
and is tagged so that no later proof unfolds a record update.
-/

namespace Sys2Proof.Machine

/-! ### raiseFault -/

@[simp] theorem raiseFault_dev (r : FaultReason) (s : State) : (raiseFault r s).dev = s.dev := rfl
@[simp] theorem raiseFault_ctl (r : FaultReason) (s : State) : (raiseFault r s).ctl = s.ctl := rfl
@[simp] theorem raiseFault_env (r : FaultReason) (s : State) : (raiseFault r s).env = s.env := rfl
@[simp] theorem raiseFault_mem (r : FaultReason) (s : State) : (raiseFault r s).mem = s.mem := rfl
@[simp] theorem raiseFault_faults (r : FaultReason) (s : State) : (raiseFault r s).faults = s.faults ++ [r] := rfl
@[simp] theorem raiseFault_refusal (r : FaultReason) (s : State) : (raiseFault r s).refusal = s.refusal := rfl
@[simp] theorem raiseFault_cfg (r : FaultReason) (s : State) : (raiseFault r s).cfg = s.cfg := rfl
@[simp] theorem raiseFault_agenda (r : FaultReason) (s : State) : (raiseFault r s).agenda = s.agenda := rfl
@[simp] theorem raiseFault_interleave (r : FaultReason) (s : State) :
    (raiseFault r s).interleave = s.interleave := rfl
@[simp] theorem raiseFault_resetReads (r : FaultReason) (s : State) :
    (raiseFault r s).resetReads = s.resetReads := rfl
@[simp] theorem raiseFault_result (r : FaultReason) (s : State) : (raiseFault r s).result = s.result := rfl
@[simp] theorem raiseFault_portAnswers (r : FaultReason) (s : State) :
    (raiseFault r s).portAnswers = s.portAnswers := rfl

/-! ### refuse -/

@[simp] theorem refuse_dev (r : RefuseReason) (s : State) : (refuse r s).dev = s.dev := rfl
@[simp] theorem refuse_ctl (r : RefuseReason) (s : State) : (refuse r s).ctl = s.ctl := rfl
@[simp] theorem refuse_env (r : RefuseReason) (s : State) : (refuse r s).env = s.env := rfl
@[simp] theorem refuse_mem (r : RefuseReason) (s : State) : (refuse r s).mem = s.mem := rfl
@[simp] theorem refuse_faults (r : RefuseReason) (s : State) : (refuse r s).faults = s.faults := rfl
@[simp] theorem refuse_refusal (r : RefuseReason) (s : State) : (refuse r s).refusal = some r := rfl
@[simp] theorem refuse_cfg (r : RefuseReason) (s : State) : (refuse r s).cfg = s.cfg := rfl
@[simp] theorem refuse_agenda (r : RefuseReason) (s : State) : (refuse r s).agenda = s.agenda := rfl
@[simp] theorem refuse_interleave (r : RefuseReason) (s : State) : (refuse r s).interleave = s.interleave := rfl
@[simp] theorem refuse_resetReads (r : RefuseReason) (s : State) : (refuse r s).resetReads = s.resetReads := rfl
@[simp] theorem refuse_result (r : RefuseReason) (s : State) : (refuse r s).result = s.result := rfl
@[simp] theorem refuse_portAnswers (r : RefuseReason) (s : State) : (refuse r s).portAnswers = s.portAnswers := rfl

/-! ### putStatus -/

@[simp] theorem putStatus_dev (d : Nat) (st : Half) (s : State) : (putStatus d st s).dev = s.dev := rfl
@[simp] theorem putStatus_ctl (d : Nat) (st : Half) (s : State) : (putStatus d st s).ctl = s.ctl := rfl
@[simp] theorem putStatus_env (d : Nat) (st : Half) (s : State) : (putStatus d st s).env = s.env := rfl
@[simp] theorem putStatus_mem (d : Nat) (st : Half) (s : State) : (putStatus d st s).mem = write16 s.mem d st := rfl
@[simp] theorem putStatus_faults (d : Nat) (st : Half) (s : State) : (putStatus d st s).faults = s.faults := rfl
@[simp] theorem putStatus_refusal (d : Nat) (st : Half) (s : State) : (putStatus d st s).refusal = s.refusal := rfl
@[simp] theorem putStatus_cfg (d : Nat) (st : Half) (s : State) : (putStatus d st s).cfg = s.cfg := rfl
@[simp] theorem putStatus_agenda (d : Nat) (st : Half) (s : State) : (putStatus d st s).agenda = s.agenda := rfl
@[simp] theorem putStatus_interleave (d : Nat) (st : Half) (s : State) :
    (putStatus d st s).interleave = s.interleave := rfl
@[simp] theorem putStatus_resetReads (d : Nat) (st : Half) (s : State) :
    (putStatus d st s).resetReads = s.resetReads := rfl
@[simp] theorem putStatus_result (d : Nat) (st : Half) (s : State) : (putStatus d st s).result = s.result := rfl
@[simp] theorem putStatus_portAnswers (d : Nat) (st : Half) (s : State) :
    (putStatus d st s).portAnswers = s.portAnswers := rfl

/-! ### writeRdp -/

@[simp] theorem writeRdp_dev (v : Half) (s : State) : (writeRdp v s).dev = csrWrite s.dev s.dev.rap v := rfl
@[simp] theorem writeRdp_ctl (v : Half) (s : State) : (writeRdp v s).ctl = s.ctl := rfl
@[simp] theorem writeRdp_env (v : Half) (s : State) : (writeRdp v s).env = s.env := rfl
@[simp] theorem writeRdp_mem (v : Half) (s : State) : (writeRdp v s).mem = s.mem := rfl
@[simp] theorem writeRdp_faults (v : Half) (s : State) : (writeRdp v s).faults = s.faults := rfl
@[simp] theorem writeRdp_refusal (v : Half) (s : State) : (writeRdp v s).refusal = s.refusal := rfl
@[simp] theorem writeRdp_cfg (v : Half) (s : State) : (writeRdp v s).cfg = s.cfg := rfl
@[simp] theorem writeRdp_agenda (v : Half) (s : State) : (writeRdp v s).agenda = s.agenda := rfl
@[simp] theorem writeRdp_interleave (v : Half) (s : State) : (writeRdp v s).interleave = s.interleave := rfl
@[simp] theorem writeRdp_resetReads (v : Half) (s : State) : (writeRdp v s).resetReads = s.resetReads := rfl
@[simp] theorem writeRdp_result (v : Half) (s : State) : (writeRdp v s).result = s.result := rfl
@[simp] theorem writeRdp_portAnswers (v : Half) (s : State) : (writeRdp v s).portAnswers = s.portAnswers := rfl

/-! ### writeRap -/

@[simp] theorem writeRap_dev (v : Half) (s : State) : (writeRap v s).dev = { s.dev with rap := rapData v } := rfl
@[simp] theorem writeRap_ctl (v : Half) (s : State) : (writeRap v s).ctl = s.ctl := rfl
@[simp] theorem writeRap_env (v : Half) (s : State) : (writeRap v s).env = s.env := rfl
@[simp] theorem writeRap_mem (v : Half) (s : State) : (writeRap v s).mem = s.mem := rfl
@[simp] theorem writeRap_faults (v : Half) (s : State) : (writeRap v s).faults = s.faults := rfl
@[simp] theorem writeRap_refusal (v : Half) (s : State) : (writeRap v s).refusal = s.refusal := rfl
@[simp] theorem writeRap_cfg (v : Half) (s : State) : (writeRap v s).cfg = s.cfg := rfl
@[simp] theorem writeRap_agenda (v : Half) (s : State) : (writeRap v s).agenda = s.agenda := rfl
@[simp] theorem writeRap_interleave (v : Half) (s : State) : (writeRap v s).interleave = s.interleave := rfl
@[simp] theorem writeRap_resetReads (v : Half) (s : State) : (writeRap v s).resetReads = s.resetReads := rfl
@[simp] theorem writeRap_result (v : Half) (s : State) : (writeRap v s).result = s.result := rfl
@[simp] theorem writeRap_portAnswers (v : Half) (s : State) : (writeRap v s).portAnswers = s.portAnswers := rfl

/-! ### writeBdp -/

@[simp] theorem writeBdp_dev (v : Half) (s : State) : (writeBdp v s).dev = bcrWrite s.dev s.dev.rap v := rfl
@[simp] theorem writeBdp_ctl (v : Half) (s : State) : (writeBdp v s).ctl = s.ctl := rfl
@[simp] theorem writeBdp_env (v : Half) (s : State) : (writeBdp v s).env = s.env := rfl
@[simp] theorem writeBdp_mem (v : Half) (s : State) : (writeBdp v s).mem = s.mem := rfl
@[simp] theorem writeBdp_faults (v : Half) (s : State) : (writeBdp v s).faults = s.faults := rfl
@[simp] theorem writeBdp_refusal (v : Half) (s : State) : (writeBdp v s).refusal = s.refusal := rfl
@[simp] theorem writeBdp_cfg (v : Half) (s : State) : (writeBdp v s).cfg = s.cfg := rfl
@[simp] theorem writeBdp_agenda (v : Half) (s : State) : (writeBdp v s).agenda = s.agenda := rfl
@[simp] theorem writeBdp_interleave (v : Half) (s : State) : (writeBdp v s).interleave = s.interleave := rfl
@[simp] theorem writeBdp_resetReads (v : Half) (s : State) : (writeBdp v s).resetReads = s.resetReads := rfl
@[simp] theorem writeBdp_result (v : Half) (s : State) : (writeBdp v s).result = s.result := rfl
@[simp] theorem writeBdp_portAnswers (v : Half) (s : State) : (writeBdp v s).portAnswers = s.portAnswers := rfl

/-! ### readReset -/

@[simp] theorem readReset_dev (s : State) : (readReset s).dev = devSReset s.dev := rfl
@[simp] theorem readReset_ctl (s : State) : (readReset s).ctl = s.ctl := rfl
@[simp] theorem readReset_env (s : State) : (readReset s).env = s.env := rfl
@[simp] theorem readReset_mem (s : State) : (readReset s).mem = s.mem := rfl
@[simp] theorem readReset_faults (s : State) : (readReset s).faults = s.faults := rfl
@[simp] theorem readReset_refusal (s : State) : (readReset s).refusal = s.refusal := rfl
@[simp] theorem readReset_cfg (s : State) : (readReset s).cfg = s.cfg := rfl
@[simp] theorem readReset_agenda (s : State) : (readReset s).agenda = s.agenda := rfl
@[simp] theorem readReset_interleave (s : State) : (readReset s).interleave = s.interleave := rfl
@[simp] theorem readReset_resetReads (s : State) : (readReset s).resetReads = s.resetReads + 1 := rfl
@[simp] theorem readReset_result (s : State) : (readReset s).result = s.result := rfl
@[simp] theorem readReset_portAnswers (s : State) : (readReset s).portAnswers = s.portAnswers := rfl

/-! ### enterDwio -/

@[simp] theorem enterDwio_dev (v : Word) (s : State) :
    (enterDwio v s).dev = csrWrite { s.dev with dwio := true } s.dev.rap (registerData v) := rfl
@[simp] theorem enterDwio_ctl (v : Word) (s : State) : (enterDwio v s).ctl = s.ctl := rfl
@[simp] theorem enterDwio_env (v : Word) (s : State) : (enterDwio v s).env = s.env := rfl
@[simp] theorem enterDwio_mem (v : Word) (s : State) : (enterDwio v s).mem = s.mem := rfl
@[simp] theorem enterDwio_faults (v : Word) (s : State) : (enterDwio v s).faults = s.faults := rfl
@[simp] theorem enterDwio_refusal (v : Word) (s : State) : (enterDwio v s).refusal = s.refusal := rfl
@[simp] theorem enterDwio_cfg (v : Word) (s : State) : (enterDwio v s).cfg = s.cfg := rfl
@[simp] theorem enterDwio_agenda (v : Word) (s : State) : (enterDwio v s).agenda = s.agenda := rfl
@[simp] theorem enterDwio_interleave (v : Word) (s : State) : (enterDwio v s).interleave = s.interleave := rfl
@[simp] theorem enterDwio_resetReads (v : Word) (s : State) : (enterDwio v s).resetReads = s.resetReads := rfl
@[simp] theorem enterDwio_result (v : Word) (s : State) : (enterDwio v s).result = s.result := rfl
@[simp] theorem enterDwio_portAnswers (v : Word) (s : State) : (enterDwio v s).portAnswers = s.portAnswers := rfl

/-! ### setLc -/

@[simp] theorem setLc_dev (l : Lifecycle) (s : State) : (setLc l s).dev = s.dev := rfl
@[simp] theorem setLc_ctl (l : Lifecycle) (s : State) : (setLc l s).ctl = { s.ctl with lc := l } := rfl
@[simp] theorem setLc_env (l : Lifecycle) (s : State) : (setLc l s).env = s.env := rfl
@[simp] theorem setLc_mem (l : Lifecycle) (s : State) : (setLc l s).mem = s.mem := rfl
@[simp] theorem setLc_faults (l : Lifecycle) (s : State) : (setLc l s).faults = s.faults := rfl
@[simp] theorem setLc_refusal (l : Lifecycle) (s : State) : (setLc l s).refusal = s.refusal := rfl
@[simp] theorem setLc_cfg (l : Lifecycle) (s : State) : (setLc l s).cfg = s.cfg := rfl
@[simp] theorem setLc_agenda (l : Lifecycle) (s : State) : (setLc l s).agenda = s.agenda := rfl
@[simp] theorem setLc_interleave (l : Lifecycle) (s : State) : (setLc l s).interleave = s.interleave := rfl
@[simp] theorem setLc_resetReads (l : Lifecycle) (s : State) : (setLc l s).resetReads = s.resetReads := rfl
@[simp] theorem setLc_result (l : Lifecycle) (s : State) : (setLc l s).result = s.result := rfl
@[simp] theorem setLc_portAnswers (l : Lifecycle) (s : State) : (setLc l s).portAnswers = s.portAnswers := rfl

/-! ### dropClaims -/

@[simp] theorem dropClaims_dev (s : State) : (dropClaims s).dev = s.dev := rfl
@[simp] theorem dropClaims_ctl (s : State) :
    (dropClaims s).ctl = { s.ctl with ioClaimed := false, irqRegistered := false } := rfl
@[simp] theorem dropClaims_env (s : State) : (dropClaims s).env = s.env := rfl
@[simp] theorem dropClaims_mem (s : State) : (dropClaims s).mem = s.mem := rfl
@[simp] theorem dropClaims_faults (s : State) : (dropClaims s).faults = s.faults := rfl
@[simp] theorem dropClaims_refusal (s : State) : (dropClaims s).refusal = s.refusal := rfl
@[simp] theorem dropClaims_cfg (s : State) : (dropClaims s).cfg = s.cfg := rfl
@[simp] theorem dropClaims_agenda (s : State) : (dropClaims s).agenda = s.agenda := rfl
@[simp] theorem dropClaims_interleave (s : State) : (dropClaims s).interleave = s.interleave := rfl
@[simp] theorem dropClaims_resetReads (s : State) : (dropClaims s).resetReads = s.resetReads := rfl
@[simp] theorem dropClaims_result (s : State) : (dropClaims s).result = s.result := rfl
@[simp] theorem dropClaims_portAnswers (s : State) : (dropClaims s).portAnswers = s.portAnswers := rfl

/-! ### registerIrq -/

@[simp] theorem registerIrq_dev (s : State) : (registerIrq s).dev = s.dev := rfl
@[simp] theorem registerIrq_ctl (s : State) : (registerIrq s).ctl = { s.ctl with irqRegistered := true } := rfl
@[simp] theorem registerIrq_env (s : State) : (registerIrq s).env = s.env := rfl
@[simp] theorem registerIrq_mem (s : State) : (registerIrq s).mem = s.mem := rfl
@[simp] theorem registerIrq_faults (s : State) : (registerIrq s).faults = s.faults := rfl
@[simp] theorem registerIrq_refusal (s : State) : (registerIrq s).refusal = s.refusal := rfl
@[simp] theorem registerIrq_cfg (s : State) : (registerIrq s).cfg = s.cfg := rfl
@[simp] theorem registerIrq_agenda (s : State) : (registerIrq s).agenda = s.agenda := rfl
@[simp] theorem registerIrq_interleave (s : State) : (registerIrq s).interleave = s.interleave := rfl
@[simp] theorem registerIrq_resetReads (s : State) : (registerIrq s).resetReads = s.resetReads := rfl
@[simp] theorem registerIrq_result (s : State) : (registerIrq s).result = s.result := rfl
@[simp] theorem registerIrq_portAnswers (s : State) : (registerIrq s).portAnswers = s.portAnswers := rfl

/-! ### claimIo -/

@[simp] theorem claimIo_dev (s : State) : (claimIo s).dev = s.dev := rfl
@[simp] theorem claimIo_ctl (s : State) : (claimIo s).ctl = { s.ctl with ioClaimed := true } := rfl
@[simp] theorem claimIo_env (s : State) : (claimIo s).env = s.env := rfl
@[simp] theorem claimIo_mem (s : State) : (claimIo s).mem = s.mem := rfl
@[simp] theorem claimIo_faults (s : State) : (claimIo s).faults = s.faults := rfl
@[simp] theorem claimIo_refusal (s : State) : (claimIo s).refusal = s.refusal := rfl
@[simp] theorem claimIo_cfg (s : State) : (claimIo s).cfg = s.cfg := rfl
@[simp] theorem claimIo_agenda (s : State) : (claimIo s).agenda = s.agenda := rfl
@[simp] theorem claimIo_interleave (s : State) : (claimIo s).interleave = s.interleave := rfl
@[simp] theorem claimIo_resetReads (s : State) : (claimIo s).resetReads = s.resetReads := rfl
@[simp] theorem claimIo_result (s : State) : (claimIo s).result = s.result := rfl
@[simp] theorem claimIo_portAnswers (s : State) : (claimIo s).portAnswers = s.portAnswers := rfl

/-! ### giveBack -/

@[simp] theorem giveBack_dev (s : State) : (giveBack s).dev = s.dev := rfl
@[simp] theorem giveBack_ctl (s : State) :
    (giveBack s).ctl =
      { s.ctl with
        irqRegistered := false, freed := s.ctl.region, region := none, ioClaimed := false, lc := .released } := rfl
@[simp] theorem giveBack_env (s : State) : (giveBack s).env = s.env := rfl
@[simp] theorem giveBack_mem (s : State) : (giveBack s).mem = s.mem := rfl
@[simp] theorem giveBack_faults (s : State) : (giveBack s).faults = s.faults := rfl
@[simp] theorem giveBack_refusal (s : State) : (giveBack s).refusal = s.refusal := rfl
@[simp] theorem giveBack_cfg (s : State) : (giveBack s).cfg = s.cfg := rfl
@[simp] theorem giveBack_agenda (s : State) : (giveBack s).agenda = s.agenda := rfl
@[simp] theorem giveBack_interleave (s : State) : (giveBack s).interleave = s.interleave := rfl
@[simp] theorem giveBack_resetReads (s : State) : (giveBack s).resetReads = s.resetReads := rfl
@[simp] theorem giveBack_result (s : State) : (giveBack s).result = s.result := rfl
@[simp] theorem giveBack_portAnswers (s : State) : (giveBack s).portAnswers = s.portAnswers := rfl

/-! ### onReceive -/

@[simp] theorem onReceive_dev (p : List Byte) (s : State) : (onReceive p s).dev = s.dev := rfl
@[simp] theorem onReceive_ctl (p : List Byte) (s : State) : (onReceive p s).ctl = s.ctl := rfl
@[simp] theorem onReceive_env (p : List Byte) (s : State) :
    (onReceive p s).env = { s.env with stackIn := s.env.stackIn ++ [p] } := rfl
@[simp] theorem onReceive_mem (p : List Byte) (s : State) : (onReceive p s).mem = s.mem := rfl
@[simp] theorem onReceive_faults (p : List Byte) (s : State) : (onReceive p s).faults = s.faults := rfl
@[simp] theorem onReceive_refusal (p : List Byte) (s : State) : (onReceive p s).refusal = s.refusal := rfl
@[simp] theorem onReceive_cfg (p : List Byte) (s : State) : (onReceive p s).cfg = s.cfg := rfl
@[simp] theorem onReceive_agenda (p : List Byte) (s : State) : (onReceive p s).agenda = s.agenda := rfl
@[simp] theorem onReceive_interleave (p : List Byte) (s : State) : (onReceive p s).interleave = s.interleave := rfl
@[simp] theorem onReceive_resetReads (p : List Byte) (s : State) : (onReceive p s).resetReads = s.resetReads := rfl
@[simp] theorem onReceive_result (p : List Byte) (s : State) : (onReceive p s).result = s.result := rfl
@[simp] theorem onReceive_portAnswers (p : List Byte) (s : State) : (onReceive p s).portAnswers = s.portAnswers := rfl

/-! ### writeInitBlock -/

@[simp] theorem writeInitBlock_dev (b : Nat) (mac : BitVec 48) (s : State) :
    (writeInitBlock b mac s).dev = s.dev := by simp only [writeInitBlock]
@[simp] theorem writeInitBlock_ctl (b : Nat) (mac : BitVec 48) (s : State) :
    (writeInitBlock b mac s).ctl = s.ctl := by simp only [writeInitBlock]
@[simp] theorem writeInitBlock_env (b : Nat) (mac : BitVec 48) (s : State) :
    (writeInitBlock b mac s).env = s.env := by simp only [writeInitBlock]
@[simp] theorem writeInitBlock_mem (b : Nat) (mac : BitVec 48) (s : State) :
    (writeInitBlock b mac s).mem = writeBytes s.mem b (initBlockBytes s.cfg b mac) := by simp only [writeInitBlock]
@[simp] theorem writeInitBlock_faults (b : Nat) (mac : BitVec 48) (s : State) :
    (writeInitBlock b mac s).faults = s.faults := by simp only [writeInitBlock]
@[simp] theorem writeInitBlock_refusal (b : Nat) (mac : BitVec 48) (s : State) :
    (writeInitBlock b mac s).refusal = s.refusal := by simp only [writeInitBlock]
@[simp] theorem writeInitBlock_cfg (b : Nat) (mac : BitVec 48) (s : State) :
    (writeInitBlock b mac s).cfg = s.cfg := by simp only [writeInitBlock]
@[simp] theorem writeInitBlock_agenda (b : Nat) (mac : BitVec 48) (s : State) :
    (writeInitBlock b mac s).agenda = s.agenda := by simp only [writeInitBlock]
@[simp] theorem writeInitBlock_interleave (b : Nat) (mac : BitVec 48) (s : State) :
    (writeInitBlock b mac s).interleave = s.interleave := by simp only [writeInitBlock]
@[simp] theorem writeInitBlock_resetReads (b : Nat) (mac : BitVec 48) (s : State) :
    (writeInitBlock b mac s).resetReads = s.resetReads := by simp only [writeInitBlock]
@[simp] theorem writeInitBlock_result (b : Nat) (mac : BitVec 48) (s : State) :
    (writeInitBlock b mac s).result = s.result := by simp only [writeInitBlock]
@[simp] theorem writeInitBlock_portAnswers (b : Nat) (mac : BitVec 48) (s : State) :
    (writeInitBlock b mac s).portAnswers = s.portAnswers := by simp only [writeInitBlock]

/-! ### devStop -/

@[simp] theorem devStop_dwio (d : Dev) : (devStop d).dwio = d.dwio := rfl
@[simp] theorem devStop_rap (d : Dev) : (devStop d).rap = d.rap := rfl
@[simp] theorem devStop_csr0 (d : Dev) : (devStop d).csr0 = Csr0.clear := rfl
@[simp] theorem devStop_csr1 (d : Dev) : (devStop d).csr1 = d.csr1 := rfl
@[simp] theorem devStop_csr2 (d : Dev) : (devStop d).csr2 = d.csr2 := rfl
@[simp] theorem devStop_csr4 (d : Dev) : (devStop d).csr4 = d.csr4 := rfl
@[simp] theorem devStop_csr15 (d : Dev) : (devStop d).csr15 = d.csr15 := rfl
@[simp] theorem devStop_csr112 (d : Dev) : (devStop d).csr112 = d.csr112 := rfl
@[simp] theorem devStop_swstyle (d : Dev) : (devStop d).swstyle = d.swstyle := rfl
@[simp] theorem devStop_devState (d : Dev) : (devStop d).devState = .stopped := rfl
@[simp] theorem devStop_pendingStart (d : Dev) : (devStop d).pendingStart = false := rfl
@[simp] theorem devStop_atStop (d : Dev) : (devStop d).atStop = true := rfl
@[simp] theorem devStop_padr (d : Dev) : (devStop d).padr = d.padr := rfl
@[simp] theorem devStop_ladrf (d : Dev) : (devStop d).ladrf = d.ladrf := rfl
@[simp] theorem devStop_rdra (d : Dev) : (devStop d).rdra = d.rdra := rfl
@[simp] theorem devStop_tdra (d : Dev) : (devStop d).tdra = d.tdra := rfl
@[simp] theorem devStop_rlen (d : Dev) : (devStop d).rlen = d.rlen := rfl
@[simp] theorem devStop_tlen (d : Dev) : (devStop d).tlen = d.tlen := rfl
@[simp] theorem devStop_rxCurDev (d : Dev) : (devStop d).rxCurDev = d.rxCurDev := rfl
@[simp] theorem devStop_txCurDev (d : Dev) : (devStop d).txCurDev = d.txCurDev := rfl

/-! ### devSReset -/

@[simp] theorem devSReset_dwio (d : Dev) : (devSReset d).dwio = d.dwio := rfl
@[simp] theorem devSReset_rap (d : Dev) : (devSReset d).rap = 0 := rfl
@[simp] theorem devSReset_csr0 (d : Dev) : (devSReset d).csr0 = Csr0.clear := rfl
@[simp] theorem devSReset_csr1 (d : Dev) : (devSReset d).csr1 = d.csr1 := rfl
@[simp] theorem devSReset_csr2 (d : Dev) : (devSReset d).csr2 = d.csr2 := rfl
@[simp] theorem devSReset_csr4 (d : Dev) : (devSReset d).csr4 = ⟨false, false⟩ := rfl
@[simp] theorem devSReset_csr15 (d : Dev) : (devSReset d).csr15 = 0 := rfl
@[simp] theorem devSReset_csr112 (d : Dev) : (devSReset d).csr112 = 0 := rfl
@[simp] theorem devSReset_swstyle (d : Dev) : (devSReset d).swstyle = d.swstyle := rfl
@[simp] theorem devSReset_devState (d : Dev) : (devSReset d).devState = .stopped := rfl
@[simp] theorem devSReset_pendingStart (d : Dev) : (devSReset d).pendingStart = false := rfl
@[simp] theorem devSReset_atStop (d : Dev) : (devSReset d).atStop = false := rfl
@[simp] theorem devSReset_padr (d : Dev) : (devSReset d).padr = d.padr := rfl
@[simp] theorem devSReset_ladrf (d : Dev) : (devSReset d).ladrf = d.ladrf := rfl
@[simp] theorem devSReset_rdra (d : Dev) : (devSReset d).rdra = d.rdra := rfl
@[simp] theorem devSReset_tdra (d : Dev) : (devSReset d).tdra = d.tdra := rfl
@[simp] theorem devSReset_rlen (d : Dev) : (devSReset d).rlen = d.rlen := rfl
@[simp] theorem devSReset_tlen (d : Dev) : (devSReset d).tlen = d.tlen := rfl
@[simp] theorem devSReset_rxCurDev (d : Dev) : (devSReset d).rxCurDev = d.rxCurDev := rfl
@[simp] theorem devSReset_txCurDev (d : Dev) : (devSReset d).txCurDev = d.txCurDev := rfl

/-! ### devStart -/

@[simp] theorem devStart_dwio (d : Dev) : (devStart d).dwio = d.dwio := rfl
@[simp] theorem devStart_rap (d : Dev) : (devStart d).rap = d.rap := rfl
@[simp] theorem devStart_csr0 (d : Dev) : (devStart d).csr0 = { d.csr0 with strt := true, rxon := !d.csr15.getLsbD 0, txon := !d.csr15.getLsbD 1 } := rfl
@[simp] theorem devStart_csr1 (d : Dev) : (devStart d).csr1 = d.csr1 := rfl
@[simp] theorem devStart_csr2 (d : Dev) : (devStart d).csr2 = d.csr2 := rfl
@[simp] theorem devStart_csr4 (d : Dev) : (devStart d).csr4 = d.csr4 := rfl
@[simp] theorem devStart_csr15 (d : Dev) : (devStart d).csr15 = d.csr15 := rfl
@[simp] theorem devStart_csr112 (d : Dev) : (devStart d).csr112 = d.csr112 := rfl
@[simp] theorem devStart_swstyle (d : Dev) : (devStart d).swstyle = d.swstyle := rfl
@[simp] theorem devStart_devState (d : Dev) : (devStart d).devState = .running := rfl
@[simp] theorem devStart_pendingStart (d : Dev) : (devStart d).pendingStart = d.pendingStart := rfl
@[simp] theorem devStart_atStop (d : Dev) : (devStart d).atStop = d.atStop := rfl
@[simp] theorem devStart_padr (d : Dev) : (devStart d).padr = d.padr := rfl
@[simp] theorem devStart_ladrf (d : Dev) : (devStart d).ladrf = d.ladrf := rfl
@[simp] theorem devStart_rdra (d : Dev) : (devStart d).rdra = d.rdra := rfl
@[simp] theorem devStart_tdra (d : Dev) : (devStart d).tdra = d.tdra := rfl
@[simp] theorem devStart_rlen (d : Dev) : (devStart d).rlen = d.rlen := rfl
@[simp] theorem devStart_tlen (d : Dev) : (devStart d).tlen = d.tlen := rfl
@[simp] theorem devStart_rxCurDev (d : Dev) : (devStart d).rxCurDev = d.rxCurDev := rfl
@[simp] theorem devStart_txCurDev (d : Dev) : (devStart d).txCurDev = d.txCurDev := rfl

/-! ### setMerr -/

@[simp] theorem setMerr_dwio (d : Dev) : (setMerr d).dwio = d.dwio := rfl
@[simp] theorem setMerr_rap (d : Dev) : (setMerr d).rap = d.rap := rfl
@[simp] theorem setMerr_csr0 (d : Dev) : (setMerr d).csr0 = { d.csr0 with merr := true } := rfl
@[simp] theorem setMerr_csr1 (d : Dev) : (setMerr d).csr1 = d.csr1 := rfl
@[simp] theorem setMerr_csr2 (d : Dev) : (setMerr d).csr2 = d.csr2 := rfl
@[simp] theorem setMerr_csr4 (d : Dev) : (setMerr d).csr4 = d.csr4 := rfl
@[simp] theorem setMerr_csr15 (d : Dev) : (setMerr d).csr15 = d.csr15 := rfl
@[simp] theorem setMerr_csr112 (d : Dev) : (setMerr d).csr112 = d.csr112 := rfl
@[simp] theorem setMerr_swstyle (d : Dev) : (setMerr d).swstyle = d.swstyle := rfl
@[simp] theorem setMerr_devState (d : Dev) : (setMerr d).devState = d.devState := rfl
@[simp] theorem setMerr_pendingStart (d : Dev) : (setMerr d).pendingStart = d.pendingStart := rfl
@[simp] theorem setMerr_atStop (d : Dev) : (setMerr d).atStop = d.atStop := rfl
@[simp] theorem setMerr_padr (d : Dev) : (setMerr d).padr = d.padr := rfl
@[simp] theorem setMerr_ladrf (d : Dev) : (setMerr d).ladrf = d.ladrf := rfl
@[simp] theorem setMerr_rdra (d : Dev) : (setMerr d).rdra = d.rdra := rfl
@[simp] theorem setMerr_tdra (d : Dev) : (setMerr d).tdra = d.tdra := rfl
@[simp] theorem setMerr_rlen (d : Dev) : (setMerr d).rlen = d.rlen := rfl
@[simp] theorem setMerr_tlen (d : Dev) : (setMerr d).tlen = d.tlen := rfl
@[simp] theorem setMerr_rxCurDev (d : Dev) : (setMerr d).rxCurDev = d.rxCurDev := rfl
@[simp] theorem setMerr_txCurDev (d : Dev) : (setMerr d).txCurDev = d.txCurDev := rfl

/-! ### initFail -/

@[simp] theorem initFail_dwio (d : Dev) : (initFail d).dwio = d.dwio := rfl
@[simp] theorem initFail_rap (d : Dev) : (initFail d).rap = d.rap := rfl
@[simp] theorem initFail_csr0 (d : Dev) : (initFail d).csr0 = { d.csr0 with merr := true, init := false } := rfl
@[simp] theorem initFail_csr1 (d : Dev) : (initFail d).csr1 = d.csr1 := rfl
@[simp] theorem initFail_csr2 (d : Dev) : (initFail d).csr2 = d.csr2 := rfl
@[simp] theorem initFail_csr4 (d : Dev) : (initFail d).csr4 = d.csr4 := rfl
@[simp] theorem initFail_csr15 (d : Dev) : (initFail d).csr15 = d.csr15 := rfl
@[simp] theorem initFail_csr112 (d : Dev) : (initFail d).csr112 = d.csr112 := rfl
@[simp] theorem initFail_swstyle (d : Dev) : (initFail d).swstyle = d.swstyle := rfl
@[simp] theorem initFail_devState (d : Dev) : (initFail d).devState = .stopped := rfl
@[simp] theorem initFail_pendingStart (d : Dev) : (initFail d).pendingStart = false := rfl
@[simp] theorem initFail_atStop (d : Dev) : (initFail d).atStop = d.atStop := rfl
@[simp] theorem initFail_padr (d : Dev) : (initFail d).padr = d.padr := rfl
@[simp] theorem initFail_ladrf (d : Dev) : (initFail d).ladrf = d.ladrf := rfl
@[simp] theorem initFail_rdra (d : Dev) : (initFail d).rdra = d.rdra := rfl
@[simp] theorem initFail_tdra (d : Dev) : (initFail d).tdra = d.tdra := rfl
@[simp] theorem initFail_rlen (d : Dev) : (initFail d).rlen = d.rlen := rfl
@[simp] theorem initFail_tlen (d : Dev) : (initFail d).tlen = d.tlen := rfl
@[simp] theorem initFail_rxCurDev (d : Dev) : (initFail d).rxCurDev = d.rxCurDev := rfl
@[simp] theorem initFail_txCurDev (d : Dev) : (initFail d).txCurDev = d.txCurDev := rfl

/-! ### missedFrame -/

@[simp] theorem missedFrame_dwio (d : Dev) : (missedFrame d).dwio = d.dwio := rfl
@[simp] theorem missedFrame_rap (d : Dev) : (missedFrame d).rap = d.rap := rfl
@[simp] theorem missedFrame_csr0 (d : Dev) : (missedFrame d).csr0 = { d.csr0 with miss := true } := rfl
@[simp] theorem missedFrame_csr1 (d : Dev) : (missedFrame d).csr1 = d.csr1 := rfl
@[simp] theorem missedFrame_csr2 (d : Dev) : (missedFrame d).csr2 = d.csr2 := rfl
@[simp] theorem missedFrame_csr4 (d : Dev) : (missedFrame d).csr4 = { d.csr4 with mfco := d.csr4.mfco || (d.csr112 + 1 == 0) } := rfl
@[simp] theorem missedFrame_csr15 (d : Dev) : (missedFrame d).csr15 = d.csr15 := rfl
@[simp] theorem missedFrame_csr112 (d : Dev) : (missedFrame d).csr112 = d.csr112 + 1 := rfl
@[simp] theorem missedFrame_swstyle (d : Dev) : (missedFrame d).swstyle = d.swstyle := rfl
@[simp] theorem missedFrame_devState (d : Dev) : (missedFrame d).devState = d.devState := rfl
@[simp] theorem missedFrame_pendingStart (d : Dev) : (missedFrame d).pendingStart = d.pendingStart := rfl
@[simp] theorem missedFrame_atStop (d : Dev) : (missedFrame d).atStop = d.atStop := rfl
@[simp] theorem missedFrame_padr (d : Dev) : (missedFrame d).padr = d.padr := rfl
@[simp] theorem missedFrame_ladrf (d : Dev) : (missedFrame d).ladrf = d.ladrf := rfl
@[simp] theorem missedFrame_rdra (d : Dev) : (missedFrame d).rdra = d.rdra := rfl
@[simp] theorem missedFrame_tdra (d : Dev) : (missedFrame d).tdra = d.tdra := rfl
@[simp] theorem missedFrame_rlen (d : Dev) : (missedFrame d).rlen = d.rlen := rfl
@[simp] theorem missedFrame_tlen (d : Dev) : (missedFrame d).tlen = d.tlen := rfl
@[simp] theorem missedFrame_rxCurDev (d : Dev) : (missedFrame d).rxCurDev = d.rxCurDev := rfl
@[simp] theorem missedFrame_txCurDev (d : Dev) : (missedFrame d).txCurDev = d.txCurDev := rfl

end Sys2Proof.Machine
end

