-- ==== Sys2Proof/Laws/Ops.lean ====
section
/-!
SUPPORT. Laws/Ops.lean: what each shared operation can do, said once: the controller's stores and the ownership operations,
the device's steps, the boundary between two steps of an operation, and the port requests.
-/

namespace Sys2Proof.Machine

/-! ### Live runs and the end of a request -/

@[simp] theorem finish_eq (r : Result) (s : State) : finish r s = .next { s with result := r } := rfl

theorem whenLive_live {s : State} (h : s.refusal = none) (k : State → Out) : whenLive s k = k s := by
  simp only [whenLive, h]

theorem whenLive_refused {s : State} {r : RefuseReason} (h : s.refusal = some r) (k : State → Out) :
    whenLive s k = .refused (.runRefused r) := by
  simp only [whenLive, h]

/-- An instruction that answers a next state does so from a live run. -/
theorem whenLive_next {s t : State} {k : State → Out} (h : whenLive s k = .next t) :
    s.refusal = none ∧ k s = .next t := by
  unfold whenLive at h
  split at h
  · cases h
  · exact ⟨‹_›, h⟩

/-! ### Keeping a property -/

/-- Whatever next state an outcome holds has the property. -/
def Keeps (P : State → Prop) (o : Out) : Prop := ∀ t, o = .next t → P t

theorem keeps_next {P : State → Prop} {s : State} (h : P s) : Keeps P (.next s) := by
  intro t e; cases e; exact h

theorem keeps_fault {P : State → Prop} (r : Fault) : Keeps P (.fault r) := by intro t e; cases e

theorem keeps_refused {P : State → Prop} (r : Refusal) : Keeps P (.refused r) := by intro t e; cases e

theorem keeps_whenLive {P : State → Prop} {s : State} {k : State → Out} (h : s.refusal = none → Keeps P (k s)) :
    Keeps P (whenLive s k) := by
  intro t e; exact h (whenLive_next e).1 t (whenLive_next e).2

theorem keeps_withRegion {P : State → Prop} {s : State} {k : Nat → Out}
    (h : ∀ r, s.ctl.region = some r → r.base + regionSize s.cfg ≤ memoryTop → Keeps P (k r.base)) :
    Keeps P (withRegion s k) := by
  unfold withRegion
  split
  · exact keeps_fault _
  · split_ifs with hr
    · exact h _ ‹_› hr
    · exact keeps_fault _

theorem keeps_withAccessMode {P : State → Prop} {s : State} {k : AccessMode → Out}
    (h : ∀ m, s.ctl.accessMode = some m → Keeps P (k m)) : Keeps P (withAccessMode s k) := by
  unfold withAccessMode
  split
  · exact keeps_fault _
  · exact h _ ‹_›

/-! ### Stores and ownership -/

/-- A controller store either records a violation of R253 and does nothing else, or writes its bytes. -/
theorem ctlStore_cases (ring : Ring) (i d a : Nat) (bs : List Byte) (s : State) :
    (s.dev.devState ≠ .stopped ∧ deviceOwns s.mem d = true ∧
      ctlStore ring i d a bs s = raiseFault (.protocolViolation .touchDeviceOwned ring i) s) ∨
    ((s.dev.devState = .stopped ∨ deviceOwns s.mem d = false) ∧
      ctlStore ring i d a bs s = { s with mem := writeBytes s.mem a bs }) := by
  unfold ctlStore
  split_ifs with h
  · exact Or.inl ⟨h.1, h.2, rfl⟩
  · refine Or.inr ⟨?_, rfl⟩
    by_cases h1 : s.dev.devState = .stopped
    · exact Or.inl h1
    · right
      cases h2 : deviceOwns s.mem d with
      | false => rfl
      | true => exact absurd ⟨h1, h2⟩ h

/-- A store the ownership rule allows writes its bytes. -/
theorem ctlStore_allowed {d : Nat} {s : State} (h : s.dev.devState = .stopped ∨ deviceOwns s.mem d = false)
    (ring : Ring) (i a : Nat) (bs : List Byte) :
    ctlStore ring i d a bs s = { s with mem := writeBytes s.mem a bs } := by
  rcases ctlStore_cases ring i d a bs s with ⟨h1, h2, _⟩ | ⟨_, h⟩
  · rcases h with h | h
    · exact absurd h h1
    · simp [h] at h2
  · exact h

/-- A release either records a double release and does nothing else, or writes the status word. -/
theorem releaseDesc_cases (ring : Ring) (i d : Nat) (st : Half) (s : State) :
    (s.dev.devState ≠ .stopped ∧ deviceOwns s.mem d = true ∧
      releaseDesc ring i d st s = raiseFault (.protocolViolation .doubleRelease ring i) s) ∨
    ((s.dev.devState = .stopped ∨ deviceOwns s.mem d = false) ∧
      releaseDesc ring i d st s = putStatus d st s) := by
  unfold releaseDesc
  split_ifs with h
  · exact Or.inl ⟨h.1, h.2, rfl⟩
  · refine Or.inr ⟨?_, rfl⟩
    by_cases h1 : s.dev.devState = .stopped
    · exact Or.inl h1
    · right
      cases h2 : deviceOwns s.mem d with
      | false => rfl
      | true => exact absurd ⟨h1, h2⟩ h

/-- A release the ownership rule allows writes the status word. -/
theorem releaseDesc_allowed {d : Nat} {s : State} (h : s.dev.devState = .stopped ∨ deviceOwns s.mem d = false)
    (ring : Ring) (i : Nat) (st : Half) : releaseDesc ring i d st s = putStatus d st s := by
  rcases releaseDesc_cases ring i d st s with ⟨h1, h2, _⟩ | ⟨_, h⟩
  · rcases h with h | h
    · exact absurd h h1
    · simp [h] at h2
  · exact h

/-- A claim either writes the status word of a device-owned descriptor or records a double claim. -/
theorem claimDesc_cases (ring : Ring) (i d : Nat) (st : Half) (s : State) :
    (deviceOwns s.mem d = true ∧ claimDesc ring i d st s = putStatus d st s) ∨
    (deviceOwns s.mem d = false ∧
      claimDesc ring i d st s = raiseFault (.protocolViolation .doubleClaim ring i) s) := by
  unfold claimDesc
  split_ifs with h
  · exact Or.inl ⟨h, rfl⟩
  · exact Or.inr ⟨by simpa using h, rfl⟩

/-! What the stores leave alone: everything but the memory and the recorded violations. -/

@[simp] theorem ctlStore_dev (r : Ring) (i d a : Nat) (bs : List Byte) (s : State) :
    (ctlStore r i d a bs s).dev = s.dev := by unfold ctlStore; split <;> rfl
@[simp] theorem ctlStore_ctl (r : Ring) (i d a : Nat) (bs : List Byte) (s : State) :
    (ctlStore r i d a bs s).ctl = s.ctl := by unfold ctlStore; split <;> rfl
@[simp] theorem ctlStore_env (r : Ring) (i d a : Nat) (bs : List Byte) (s : State) :
    (ctlStore r i d a bs s).env = s.env := by unfold ctlStore; split <;> rfl
@[simp] theorem ctlStore_refusal (r : Ring) (i d a : Nat) (bs : List Byte) (s : State) :
    (ctlStore r i d a bs s).refusal = s.refusal := by unfold ctlStore; split <;> rfl
@[simp] theorem ctlStore_cfg (r : Ring) (i d a : Nat) (bs : List Byte) (s : State) :
    (ctlStore r i d a bs s).cfg = s.cfg := by unfold ctlStore; split <;> rfl
@[simp] theorem ctlStore_agenda (r : Ring) (i d a : Nat) (bs : List Byte) (s : State) :
    (ctlStore r i d a bs s).agenda = s.agenda := by unfold ctlStore; split <;> rfl
@[simp] theorem ctlStore_interleave (r : Ring) (i d a : Nat) (bs : List Byte) (s : State) :
    (ctlStore r i d a bs s).interleave = s.interleave := by unfold ctlStore; split <;> rfl
@[simp] theorem ctlStore_resetReads (r : Ring) (i d a : Nat) (bs : List Byte) (s : State) :
    (ctlStore r i d a bs s).resetReads = s.resetReads := by unfold ctlStore; split <;> rfl
@[simp] theorem ctlStore_result (r : Ring) (i d a : Nat) (bs : List Byte) (s : State) :
    (ctlStore r i d a bs s).result = s.result := by unfold ctlStore; split <;> rfl
@[simp] theorem ctlStore_portAnswers (r : Ring) (i d a : Nat) (bs : List Byte) (s : State) :
    (ctlStore r i d a bs s).portAnswers = s.portAnswers := by unfold ctlStore; split <;> rfl

@[simp] theorem releaseDesc_dev (r : Ring) (i d : Nat) (st : Half) (s : State) :
    (releaseDesc r i d st s).dev = s.dev := by unfold releaseDesc; split <;> rfl
@[simp] theorem releaseDesc_ctl (r : Ring) (i d : Nat) (st : Half) (s : State) :
    (releaseDesc r i d st s).ctl = s.ctl := by unfold releaseDesc; split <;> rfl
@[simp] theorem releaseDesc_env (r : Ring) (i d : Nat) (st : Half) (s : State) :
    (releaseDesc r i d st s).env = s.env := by unfold releaseDesc; split <;> rfl
@[simp] theorem releaseDesc_refusal (r : Ring) (i d : Nat) (st : Half) (s : State) :
    (releaseDesc r i d st s).refusal = s.refusal := by unfold releaseDesc; split <;> rfl
@[simp] theorem releaseDesc_cfg (r : Ring) (i d : Nat) (st : Half) (s : State) :
    (releaseDesc r i d st s).cfg = s.cfg := by unfold releaseDesc; split <;> rfl
@[simp] theorem releaseDesc_agenda (r : Ring) (i d : Nat) (st : Half) (s : State) :
    (releaseDesc r i d st s).agenda = s.agenda := by unfold releaseDesc; split <;> rfl
@[simp] theorem releaseDesc_interleave (r : Ring) (i d : Nat) (st : Half) (s : State) :
    (releaseDesc r i d st s).interleave = s.interleave := by unfold releaseDesc; split <;> rfl
@[simp] theorem releaseDesc_resetReads (r : Ring) (i d : Nat) (st : Half) (s : State) :
    (releaseDesc r i d st s).resetReads = s.resetReads := by unfold releaseDesc; split <;> rfl
@[simp] theorem releaseDesc_result (r : Ring) (i d : Nat) (st : Half) (s : State) :
    (releaseDesc r i d st s).result = s.result := by unfold releaseDesc; split <;> rfl
@[simp] theorem releaseDesc_portAnswers (r : Ring) (i d : Nat) (st : Half) (s : State) :
    (releaseDesc r i d st s).portAnswers = s.portAnswers := by unfold releaseDesc; split <;> rfl

@[simp] theorem claimDesc_dev (r : Ring) (i d : Nat) (st : Half) (s : State) :
    (claimDesc r i d st s).dev = s.dev := by unfold claimDesc; split <;> rfl
@[simp] theorem claimDesc_ctl (r : Ring) (i d : Nat) (st : Half) (s : State) :
    (claimDesc r i d st s).ctl = s.ctl := by unfold claimDesc; split <;> rfl
@[simp] theorem claimDesc_env (r : Ring) (i d : Nat) (st : Half) (s : State) :
    (claimDesc r i d st s).env = s.env := by unfold claimDesc; split <;> rfl
@[simp] theorem claimDesc_refusal (r : Ring) (i d : Nat) (st : Half) (s : State) :
    (claimDesc r i d st s).refusal = s.refusal := by unfold claimDesc; split <;> rfl
@[simp] theorem claimDesc_cfg (r : Ring) (i d : Nat) (st : Half) (s : State) :
    (claimDesc r i d st s).cfg = s.cfg := by unfold claimDesc; split <;> rfl
@[simp] theorem claimDesc_agenda (r : Ring) (i d : Nat) (st : Half) (s : State) :
    (claimDesc r i d st s).agenda = s.agenda := by unfold claimDesc; split <;> rfl
@[simp] theorem claimDesc_interleave (r : Ring) (i d : Nat) (st : Half) (s : State) :
    (claimDesc r i d st s).interleave = s.interleave := by unfold claimDesc; split <;> rfl
@[simp] theorem claimDesc_resetReads (r : Ring) (i d : Nat) (st : Half) (s : State) :
    (claimDesc r i d st s).resetReads = s.resetReads := by unfold claimDesc; split <;> rfl
@[simp] theorem claimDesc_result (r : Ring) (i d : Nat) (st : Half) (s : State) :
    (claimDesc r i d st s).result = s.result := by unfold claimDesc; split <;> rfl
@[simp] theorem claimDesc_portAnswers (r : Ring) (i d : Nat) (st : Half) (s : State) :
    (claimDesc r i d st s).portAnswers = s.portAnswers := by unfold claimDesc; split <;> rfl

/-! ### Slots -/

@[simp] theorem rxArm_dev (b i : Nat) (s : State) :
    (rxArm b i s).dev = s.dev := by simp only [rxArm, ctlStore_dev, releaseDesc_dev]
@[simp] theorem rxArm_ctl (b i : Nat) (s : State) :
    (rxArm b i s).ctl = s.ctl := by simp only [rxArm, ctlStore_ctl, releaseDesc_ctl]
@[simp] theorem rxArm_env (b i : Nat) (s : State) :
    (rxArm b i s).env = s.env := by simp only [rxArm, ctlStore_env, releaseDesc_env]
@[simp] theorem rxArm_refusal (b i : Nat) (s : State) :
    (rxArm b i s).refusal = s.refusal := by simp only [rxArm, ctlStore_refusal, releaseDesc_refusal]
@[simp] theorem rxArm_cfg (b i : Nat) (s : State) :
    (rxArm b i s).cfg = s.cfg := by simp only [rxArm, ctlStore_cfg, releaseDesc_cfg]
@[simp] theorem rxArm_agenda (b i : Nat) (s : State) :
    (rxArm b i s).agenda = s.agenda := by simp only [rxArm, ctlStore_agenda, releaseDesc_agenda]
@[simp] theorem rxArm_interleave (b i : Nat) (s : State) :
    (rxArm b i s).interleave = s.interleave := by simp only [rxArm, ctlStore_interleave, releaseDesc_interleave]
@[simp] theorem rxArm_resetReads (b i : Nat) (s : State) :
    (rxArm b i s).resetReads = s.resetReads := by simp only [rxArm, ctlStore_resetReads, releaseDesc_resetReads]
@[simp] theorem rxArm_result (b i : Nat) (s : State) :
    (rxArm b i s).result = s.result := by simp only [rxArm, ctlStore_result, releaseDesc_result]
@[simp] theorem rxArm_portAnswers (b i : Nat) (s : State) :
    (rxArm b i s).portAnswers = s.portAnswers := by simp only [rxArm, ctlStore_portAnswers, releaseDesc_portAnswers]

@[simp] theorem txInit_dev (b i : Nat) (s : State) : (txInit b i s).dev = s.dev := by simp only [txInit, ctlStore_dev]
@[simp] theorem txInit_ctl (b i : Nat) (s : State) : (txInit b i s).ctl = s.ctl := by simp only [txInit, ctlStore_ctl]
@[simp] theorem txInit_env (b i : Nat) (s : State) : (txInit b i s).env = s.env := by simp only [txInit, ctlStore_env]
@[simp] theorem txInit_refusal (b i : Nat) (s : State) :
    (txInit b i s).refusal = s.refusal := by simp only [txInit, ctlStore_refusal]
@[simp] theorem txInit_cfg (b i : Nat) (s : State) : (txInit b i s).cfg = s.cfg := by simp only [txInit, ctlStore_cfg]
@[simp] theorem txInit_agenda (b i : Nat) (s : State) :
    (txInit b i s).agenda = s.agenda := by simp only [txInit, ctlStore_agenda]
@[simp] theorem txInit_interleave (b i : Nat) (s : State) :
    (txInit b i s).interleave = s.interleave := by simp only [txInit, ctlStore_interleave]
@[simp] theorem txInit_resetReads (b i : Nat) (s : State) :
    (txInit b i s).resetReads = s.resetReads := by simp only [txInit, ctlStore_resetReads]
@[simp] theorem txInit_result (b i : Nat) (s : State) :
    (txInit b i s).result = s.result := by simp only [txInit, ctlStore_result]
@[simp] theorem txInit_portAnswers (b i : Nat) (s : State) :
    (txInit b i s).portAnswers = s.portAnswers := by simp only [txInit, ctlStore_portAnswers]

@[simp] theorem takeNext_dev (b : Nat) (s : State) :
    ((takeNext b s).2).dev = s.dev := by unfold takeNext; dsimp only; split <;> simp
@[simp] theorem takeNext_env (b : Nat) (s : State) :
    ((takeNext b s).2).env = s.env := by unfold takeNext; dsimp only; split <;> simp
@[simp] theorem takeNext_refusal (b : Nat) (s : State) :
    ((takeNext b s).2).refusal = s.refusal := by unfold takeNext; dsimp only; split <;> simp
@[simp] theorem takeNext_cfg (b : Nat) (s : State) :
    ((takeNext b s).2).cfg = s.cfg := by unfold takeNext; dsimp only; split <;> simp
@[simp] theorem takeNext_agenda (b : Nat) (s : State) :
    ((takeNext b s).2).agenda = s.agenda := by unfold takeNext; dsimp only; split <;> simp
@[simp] theorem takeNext_interleave (b : Nat) (s : State) :
    ((takeNext b s).2).interleave = s.interleave := by unfold takeNext; dsimp only; split <;> simp
@[simp] theorem takeNext_resetReads (b : Nat) (s : State) :
    ((takeNext b s).2).resetReads = s.resetReads := by unfold takeNext; dsimp only; split <;> simp
@[simp] theorem takeNext_result (b : Nat) (s : State) :
    ((takeNext b s).2).result = s.result := by unfold takeNext; dsimp only; split <;> simp
@[simp] theorem takeNext_portAnswers (b : Nat) (s : State) :
    ((takeNext b s).2).portAnswers = s.portAnswers := by unfold takeNext; dsimp only; split <;> simp

@[simp] theorem txPost_dev (b : Nat) (p : List Byte) (s : State) :
    ((txPost b p s).2).dev = s.dev := by unfold txPost; dsimp only; split <;> simp
@[simp] theorem txPost_env (b : Nat) (p : List Byte) (s : State) :
    ((txPost b p s).2).env = s.env := by unfold txPost; dsimp only; split <;> simp
@[simp] theorem txPost_refusal (b : Nat) (p : List Byte) (s : State) :
    ((txPost b p s).2).refusal = s.refusal := by unfold txPost; dsimp only; split <;> simp
@[simp] theorem txPost_cfg (b : Nat) (p : List Byte) (s : State) :
    ((txPost b p s).2).cfg = s.cfg := by unfold txPost; dsimp only; split <;> simp
@[simp] theorem txPost_agenda (b : Nat) (p : List Byte) (s : State) :
    ((txPost b p s).2).agenda = s.agenda := by unfold txPost; dsimp only; split <;> simp
@[simp] theorem txPost_interleave (b : Nat) (p : List Byte) (s : State) :
    ((txPost b p s).2).interleave = s.interleave := by unfold txPost; dsimp only; split <;> simp
@[simp] theorem txPost_resetReads (b : Nat) (p : List Byte) (s : State) :
    ((txPost b p s).2).resetReads = s.resetReads := by unfold txPost; dsimp only; split <;> simp
@[simp] theorem txPost_result (b : Nat) (p : List Byte) (s : State) :
    ((txPost b p s).2).result = s.result := by unfold txPost; dsimp only; split <;> simp
@[simp] theorem txPost_portAnswers (b : Nat) (p : List Byte) (s : State) :
    ((txPost b p s).2).portAnswers = s.portAnswers := by unfold txPost; dsimp only; split <;> simp

/-! ### Device steps: they leave the controller, the parameters and the schedule alone -/

@[simp] theorem devInit_ctl (s : State) : (devInit s).ctl = s.ctl := by unfold devInit; dsimp only; split_ifs <;> rfl
@[simp] theorem devInit_cfg (s : State) : (devInit s).cfg = s.cfg := by unfold devInit; dsimp only; split_ifs <;> rfl
@[simp] theorem devInit_agenda (s : State) :
    (devInit s).agenda = s.agenda := by unfold devInit; dsimp only; split_ifs <;> rfl
@[simp] theorem devInit_interleave (s : State) :
    (devInit s).interleave = s.interleave := by unfold devInit; dsimp only; split_ifs <;> rfl
@[simp] theorem devInit_resetReads (s : State) :
    (devInit s).resetReads = s.resetReads := by unfold devInit; dsimp only; split_ifs <;> rfl
@[simp] theorem devInit_result (s : State) :
    (devInit s).result = s.result := by unfold devInit; dsimp only; split_ifs <;> rfl
@[simp] theorem devInit_portAnswers (s : State) :
    (devInit s).portAnswers = s.portAnswers := by unfold devInit; dsimp only; split_ifs <;> rfl

@[simp] theorem txReturn_ctl (i d : Nat) (st : Half) (s : State) :
    (txReturn i d st s).ctl = s.ctl := by simp [txReturn]
@[simp] theorem txReturn_cfg (i d : Nat) (st : Half) (s : State) :
    (txReturn i d st s).cfg = s.cfg := by simp [txReturn]
@[simp] theorem txReturn_agenda (i d : Nat) (st : Half) (s : State) :
    (txReturn i d st s).agenda = s.agenda := by simp [txReturn]
@[simp] theorem txReturn_interleave (i d : Nat) (st : Half) (s : State) :
    (txReturn i d st s).interleave = s.interleave := by simp [txReturn]
@[simp] theorem txReturn_resetReads (i d : Nat) (st : Half) (s : State) :
    (txReturn i d st s).resetReads = s.resetReads := by simp [txReturn]
@[simp] theorem txReturn_result (i d : Nat) (st : Half) (s : State) :
    (txReturn i d st s).result = s.result := by simp [txReturn]
@[simp] theorem txReturn_portAnswers (i d : Nat) (st : Half) (s : State) :
    (txReturn i d st s).portAnswers = s.portAnswers := by simp [txReturn]
@[simp] theorem txReturn_env (i d : Nat) (st : Half) (s : State) :
    (txReturn i d st s).env = s.env := by simp [txReturn]
@[simp] theorem txReturn_refusal (i d : Nat) (st : Half) (s : State) :
    (txReturn i d st s).refusal = s.refusal := by simp [txReturn]

@[simp] theorem txSend_ctl (f : List Byte) (s : State) : (txSend f s).ctl = s.ctl := by rfl
@[simp] theorem txSend_cfg (f : List Byte) (s : State) : (txSend f s).cfg = s.cfg := by rfl
@[simp] theorem txSend_agenda (f : List Byte) (s : State) : (txSend f s).agenda = s.agenda := by rfl
@[simp] theorem txSend_interleave (f : List Byte) (s : State) : (txSend f s).interleave = s.interleave := by rfl
@[simp] theorem txSend_resetReads (f : List Byte) (s : State) : (txSend f s).resetReads = s.resetReads := by rfl
@[simp] theorem txSend_result (f : List Byte) (s : State) : (txSend f s).result = s.result := by rfl
@[simp] theorem txSend_portAnswers (f : List Byte) (s : State) : (txSend f s).portAnswers = s.portAnswers := by rfl
@[simp] theorem txSend_mem (f : List Byte) (s : State) : (txSend f s).mem = s.mem := by rfl
@[simp] theorem txSend_faults (f : List Byte) (s : State) : (txSend f s).faults = s.faults := by rfl
@[simp] theorem txSend_refusal (f : List Byte) (s : State) : (txSend f s).refusal = s.refusal := by rfl

@[simp] theorem txOutcomeStep_ctl (o : TxOutcome) (f : List Byte) (st : Half) (s : State) :
    ((txOutcomeStep o f st s).2).ctl = s.ctl := by cases o <;> rfl
@[simp] theorem txOutcomeStep_cfg (o : TxOutcome) (f : List Byte) (st : Half) (s : State) :
    ((txOutcomeStep o f st s).2).cfg = s.cfg := by cases o <;> rfl
@[simp] theorem txOutcomeStep_agenda (o : TxOutcome) (f : List Byte) (st : Half) (s : State) :
    ((txOutcomeStep o f st s).2).agenda = s.agenda := by cases o <;> rfl
@[simp] theorem txOutcomeStep_interleave (o : TxOutcome) (f : List Byte) (st : Half) (s : State) :
    ((txOutcomeStep o f st s).2).interleave = s.interleave := by cases o <;> rfl
@[simp] theorem txOutcomeStep_resetReads (o : TxOutcome) (f : List Byte) (st : Half) (s : State) :
    ((txOutcomeStep o f st s).2).resetReads = s.resetReads := by cases o <;> rfl
@[simp] theorem txOutcomeStep_result (o : TxOutcome) (f : List Byte) (st : Half) (s : State) :
    ((txOutcomeStep o f st s).2).result = s.result := by cases o <;> rfl
@[simp] theorem txOutcomeStep_portAnswers (o : TxOutcome) (f : List Byte) (st : Half) (s : State) :
    ((txOutcomeStep o f st s).2).portAnswers = s.portAnswers := by cases o <;> rfl
@[simp] theorem txOutcomeStep_mem (o : TxOutcome) (f : List Byte) (st : Half) (s : State) :
    ((txOutcomeStep o f st s).2).mem = s.mem := by cases o <;> rfl
@[simp] theorem txOutcomeStep_faults (o : TxOutcome) (f : List Byte) (st : Half) (s : State) :
    ((txOutcomeStep o f st s).2).faults = s.faults := by cases o <;> rfl
@[simp] theorem txOutcomeStep_refusal (o : TxOutcome) (f : List Byte) (st : Half) (s : State) :
    ((txOutcomeStep o f st s).2).refusal = s.refusal := by cases o <;> rfl

@[simp] theorem txDescriptor_ctl (o : TxOutcome) (c : Bool) (i d : Nat) (s : State) :
    (txDescriptor o c i d s).ctl = s.ctl := by
  unfold txDescriptor; dsimp only; split
  · split_ifs <;> simp
  · simp
@[simp] theorem txDescriptor_cfg (o : TxOutcome) (c : Bool) (i d : Nat) (s : State) :
    (txDescriptor o c i d s).cfg = s.cfg := by
  unfold txDescriptor; dsimp only; split
  · split_ifs <;> simp
  · simp
@[simp] theorem txDescriptor_agenda (o : TxOutcome) (c : Bool) (i d : Nat) (s : State) :
    (txDescriptor o c i d s).agenda = s.agenda := by
  unfold txDescriptor; dsimp only; split
  · split_ifs <;> simp
  · simp
@[simp] theorem txDescriptor_interleave (o : TxOutcome) (c : Bool) (i d : Nat) (s : State) :
    (txDescriptor o c i d s).interleave = s.interleave := by
  unfold txDescriptor; dsimp only; split
  · split_ifs <;> simp
  · simp
@[simp] theorem txDescriptor_resetReads (o : TxOutcome) (c : Bool) (i d : Nat) (s : State) :
    (txDescriptor o c i d s).resetReads = s.resetReads := by
  unfold txDescriptor; dsimp only; split
  · split_ifs <;> simp
  · simp
@[simp] theorem txDescriptor_result (o : TxOutcome) (c : Bool) (i d : Nat) (s : State) :
    (txDescriptor o c i d s).result = s.result := by
  unfold txDescriptor; dsimp only; split
  · split_ifs <;> simp
  · simp
@[simp] theorem txDescriptor_portAnswers (o : TxOutcome) (c : Bool) (i d : Nat) (s : State) :
    (txDescriptor o c i d s).portAnswers = s.portAnswers := by
  unfold txDescriptor; dsimp only; split
  · split_ifs <;> simp
  · simp
@[simp] theorem txDescriptor_refusal (o : TxOutcome) (c : Bool) (i d : Nat) (s : State) :
    (txDescriptor o c i d s).refusal = s.refusal := by
  unfold txDescriptor; dsimp only; split
  · split_ifs <;> simp
  · simp

@[simp] theorem devTx_ctl (o : TxOutcome) (c : Bool) (s : State) :
    (devTx o c s).ctl = s.ctl := by unfold devTx; dsimp only; split_ifs <;> simp
@[simp] theorem devTx_cfg (o : TxOutcome) (c : Bool) (s : State) :
    (devTx o c s).cfg = s.cfg := by unfold devTx; dsimp only; split_ifs <;> simp
@[simp] theorem devTx_agenda (o : TxOutcome) (c : Bool) (s : State) :
    (devTx o c s).agenda = s.agenda := by unfold devTx; dsimp only; split_ifs <;> simp
@[simp] theorem devTx_interleave (o : TxOutcome) (c : Bool) (s : State) :
    (devTx o c s).interleave = s.interleave := by unfold devTx; dsimp only; split_ifs <;> simp
@[simp] theorem devTx_resetReads (o : TxOutcome) (c : Bool) (s : State) :
    (devTx o c s).resetReads = s.resetReads := by unfold devTx; dsimp only; split_ifs <;> simp
@[simp] theorem devTx_result (o : TxOutcome) (c : Bool) (s : State) :
    (devTx o c s).result = s.result := by unfold devTx; dsimp only; split_ifs <;> simp
@[simp] theorem devTx_portAnswers (o : TxOutcome) (c : Bool) (s : State) :
    (devTx o c s).portAnswers = s.portAnswers := by unfold devTx; dsimp only; split_ifs <;> simp
@[simp] theorem devTx_refusal (o : TxOutcome) (c : Bool) (s : State) :
    (devTx o c s).refusal = s.refusal := by unfold devTx; dsimp only; split_ifs <;> simp

@[simp] theorem rxComplete_ctl (i d n : Nat) (st : Half) (s : State) :
    (rxComplete i d n st s).ctl = s.ctl := by simp [rxComplete]
@[simp] theorem rxComplete_cfg (i d n : Nat) (st : Half) (s : State) :
    (rxComplete i d n st s).cfg = s.cfg := by simp [rxComplete]
@[simp] theorem rxComplete_agenda (i d n : Nat) (st : Half) (s : State) :
    (rxComplete i d n st s).agenda = s.agenda := by simp [rxComplete]
@[simp] theorem rxComplete_interleave (i d n : Nat) (st : Half) (s : State) :
    (rxComplete i d n st s).interleave = s.interleave := by simp [rxComplete]
@[simp] theorem rxComplete_resetReads (i d n : Nat) (st : Half) (s : State) :
    (rxComplete i d n st s).resetReads = s.resetReads := by simp [rxComplete]
@[simp] theorem rxComplete_result (i d n : Nat) (st : Half) (s : State) :
    (rxComplete i d n st s).result = s.result := by simp [rxComplete]
@[simp] theorem rxComplete_portAnswers (i d n : Nat) (st : Half) (s : State) :
    (rxComplete i d n st s).portAnswers = s.portAnswers := by simp [rxComplete]
@[simp] theorem rxComplete_env (i d n : Nat) (st : Half) (s : State) :
    (rxComplete i d n st s).env = s.env := by simp [rxComplete]
@[simp] theorem rxComplete_refusal (i d n : Nat) (st : Half) (s : State) :
    (rxComplete i d n st s).refusal = s.refusal := by simp [rxComplete]

@[simp] theorem rxFill_ctl (f : Frame) (i d : Nat) (s : State) :
    (rxFill f i d s).ctl = s.ctl := by unfold rxFill; dsimp only; split_ifs <;> simp
@[simp] theorem rxFill_cfg (f : Frame) (i d : Nat) (s : State) :
    (rxFill f i d s).cfg = s.cfg := by unfold rxFill; dsimp only; split_ifs <;> simp
@[simp] theorem rxFill_agenda (f : Frame) (i d : Nat) (s : State) :
    (rxFill f i d s).agenda = s.agenda := by unfold rxFill; dsimp only; split_ifs <;> simp
@[simp] theorem rxFill_interleave (f : Frame) (i d : Nat) (s : State) :
    (rxFill f i d s).interleave = s.interleave := by unfold rxFill; dsimp only; split_ifs <;> simp
@[simp] theorem rxFill_resetReads (f : Frame) (i d : Nat) (s : State) :
    (rxFill f i d s).resetReads = s.resetReads := by unfold rxFill; dsimp only; split_ifs <;> simp
@[simp] theorem rxFill_result (f : Frame) (i d : Nat) (s : State) :
    (rxFill f i d s).result = s.result := by unfold rxFill; dsimp only; split_ifs <;> simp
@[simp] theorem rxFill_portAnswers (f : Frame) (i d : Nat) (s : State) :
    (rxFill f i d s).portAnswers = s.portAnswers := by unfold rxFill; dsimp only; split_ifs <;> simp
@[simp] theorem rxFill_env (f : Frame) (i d : Nat) (s : State) :
    (rxFill f i d s).env = s.env := by unfold rxFill; dsimp only; split_ifs <;> simp
@[simp] theorem rxFill_refusal (f : Frame) (i d : Nat) (s : State) :
    (rxFill f i d s).refusal = s.refusal := by unfold rxFill; dsimp only; split_ifs <;> simp

@[simp] theorem rxFrame_ctl (f : Frame) (s : State) :
    (rxFrame f s).ctl = s.ctl := by unfold rxFrame; dsimp only; split_ifs <;> simp
@[simp] theorem rxFrame_cfg (f : Frame) (s : State) :
    (rxFrame f s).cfg = s.cfg := by unfold rxFrame; dsimp only; split_ifs <;> simp
@[simp] theorem rxFrame_agenda (f : Frame) (s : State) :
    (rxFrame f s).agenda = s.agenda := by unfold rxFrame; dsimp only; split_ifs <;> simp
@[simp] theorem rxFrame_interleave (f : Frame) (s : State) :
    (rxFrame f s).interleave = s.interleave := by unfold rxFrame; dsimp only; split_ifs <;> simp
@[simp] theorem rxFrame_resetReads (f : Frame) (s : State) :
    (rxFrame f s).resetReads = s.resetReads := by unfold rxFrame; dsimp only; split_ifs <;> simp
@[simp] theorem rxFrame_result (f : Frame) (s : State) :
    (rxFrame f s).result = s.result := by unfold rxFrame; dsimp only; split_ifs <;> simp
@[simp] theorem rxFrame_portAnswers (f : Frame) (s : State) :
    (rxFrame f s).portAnswers = s.portAnswers := by unfold rxFrame; dsimp only; split_ifs <;> simp
@[simp] theorem rxFrame_env (f : Frame) (s : State) :
    (rxFrame f s).env = s.env := by unfold rxFrame; dsimp only; split_ifs <;> simp
@[simp] theorem rxFrame_refusal (f : Frame) (s : State) :
    (rxFrame f s).refusal = s.refusal := by unfold rxFrame; dsimp only; split_ifs <;> simp

@[simp] theorem devRx_ctl (s : State) : (devRx s).ctl = s.ctl := by unfold devRx; split <;> simp
@[simp] theorem devRx_cfg (s : State) : (devRx s).cfg = s.cfg := by unfold devRx; split <;> simp
@[simp] theorem devRx_agenda (s : State) : (devRx s).agenda = s.agenda := by unfold devRx; split <;> simp
@[simp] theorem devRx_interleave (s : State) : (devRx s).interleave = s.interleave := by unfold devRx; split <;> simp
@[simp] theorem devRx_resetReads (s : State) : (devRx s).resetReads = s.resetReads := by unfold devRx; split <;> simp
@[simp] theorem devRx_result (s : State) : (devRx s).result = s.result := by unfold devRx; split <;> simp
@[simp] theorem devRx_portAnswers (s : State) : (devRx s).portAnswers = s.portAnswers := by unfold devRx; split <;> simp
@[simp] theorem devRx_refusal (s : State) : (devRx s).refusal = s.refusal := by unfold devRx; split <;> simp

@[simp] theorem takeStep_ctl (a : AgentStep) (s : State) : (takeStep a s).ctl = s.ctl := by
  cases a <;> dsimp only [takeStep] <;> (try split_ifs) <;> simp
@[simp] theorem takeStep_cfg (a : AgentStep) (s : State) : (takeStep a s).cfg = s.cfg := by
  cases a <;> dsimp only [takeStep] <;> (try split_ifs) <;> simp
@[simp] theorem takeStep_agenda (a : AgentStep) (s : State) : (takeStep a s).agenda = s.agenda := by
  cases a <;> dsimp only [takeStep] <;> (try split_ifs) <;> simp
@[simp] theorem takeStep_interleave (a : AgentStep) (s : State) : (takeStep a s).interleave = s.interleave := by
  cases a <;> dsimp only [takeStep] <;> (try split_ifs) <;> simp
@[simp] theorem takeStep_resetReads (a : AgentStep) (s : State) : (takeStep a s).resetReads = s.resetReads := by
  cases a <;> dsimp only [takeStep] <;> (try split_ifs) <;> simp
@[simp] theorem takeStep_result (a : AgentStep) (s : State) : (takeStep a s).result = s.result := by
  cases a <;> dsimp only [takeStep] <;> (try split_ifs) <;> simp
@[simp] theorem takeStep_portAnswers (a : AgentStep) (s : State) : (takeStep a s).portAnswers = s.portAnswers := by
  cases a <;> dsimp only [takeStep] <;> (try split_ifs) <;> simp

/-- What an agent step can do: nothing (the run is refused, or the step would access a freed region), or the step. -/
theorem agentStep_cases (a : AgentStep) (s : State) :
    agentStep a s = s ∨ (s.refusal = none ∧ barred a s = false ∧ agentStep a s = takeStep a s) := by
  unfold agentStep
  cases hr : s.refusal with
  | some r => exact Or.inl rfl
  | none =>
    cases hb : barred a s with
    | true => exact Or.inl rfl
    | false => exact Or.inr ⟨rfl, rfl, rfl⟩

/-- An agent step of a live run that does not reach a freed region is the step. -/
theorem agentStep_live {a : AgentStep} {s : State} (hr : s.refusal = none) (hb : barred a s = false) :
    agentStep a s = takeStep a s := by
  simp [agentStep, hr, hb]

/-- Before `RELEASE` has freed a region, no step is barred. -/
theorem barred_of_freed_none (a : AgentStep) {s : State} (h : s.ctl.freed = none) : barred a s = false := by
  have hm : meetsFreed s = fun _ => false := by funext r; simp [meetsFreed, h]
  simp [barred, hm]

@[simp] theorem agentStep_ctl (a : AgentStep) (s : State) : (agentStep a s).ctl = s.ctl := by
  rcases agentStep_cases a s with e | ⟨_, _, e⟩ <;> simp [e]
@[simp] theorem agentStep_cfg (a : AgentStep) (s : State) : (agentStep a s).cfg = s.cfg := by
  rcases agentStep_cases a s with e | ⟨_, _, e⟩ <;> simp [e]
@[simp] theorem agentStep_agenda (a : AgentStep) (s : State) : (agentStep a s).agenda = s.agenda := by
  rcases agentStep_cases a s with e | ⟨_, _, e⟩ <;> simp [e]
@[simp] theorem agentStep_interleave (a : AgentStep) (s : State) : (agentStep a s).interleave = s.interleave := by
  rcases agentStep_cases a s with e | ⟨_, _, e⟩ <;> simp [e]
@[simp] theorem agentStep_resetReads (a : AgentStep) (s : State) : (agentStep a s).resetReads = s.resetReads := by
  rcases agentStep_cases a s with e | ⟨_, _, e⟩ <;> simp [e]
@[simp] theorem agentStep_result (a : AgentStep) (s : State) : (agentStep a s).result = s.result := by
  rcases agentStep_cases a s with e | ⟨_, _, e⟩ <;> simp [e]
@[simp] theorem agentStep_portAnswers (a : AgentStep) (s : State) : (agentStep a s).portAnswers = s.portAnswers := by
  rcases agentStep_cases a s with e | ⟨_, _, e⟩ <;> simp [e]

@[simp] theorem agentSteps_ctl (as : List AgentStep) (s : State) :
    (agentSteps as s).ctl = s.ctl := by
  induction as generalizing s with
  | nil => rfl
  | cons a as ih => simp [agentSteps, ih]
@[simp] theorem agentSteps_cfg (as : List AgentStep) (s : State) :
    (agentSteps as s).cfg = s.cfg := by
  induction as generalizing s with
  | nil => rfl
  | cons a as ih => simp [agentSteps, ih]
@[simp] theorem agentSteps_agenda (as : List AgentStep) (s : State) :
    (agentSteps as s).agenda = s.agenda := by
  induction as generalizing s with
  | nil => rfl
  | cons a as ih => simp [agentSteps, ih]
@[simp] theorem agentSteps_interleave (as : List AgentStep) (s : State) :
    (agentSteps as s).interleave = s.interleave := by
  induction as generalizing s with
  | nil => rfl
  | cons a as ih => simp [agentSteps, ih]
@[simp] theorem agentSteps_resetReads (as : List AgentStep) (s : State) :
    (agentSteps as s).resetReads = s.resetReads := by
  induction as generalizing s with
  | nil => rfl
  | cons a as ih => simp [agentSteps, ih]
@[simp] theorem agentSteps_result (as : List AgentStep) (s : State) :
    (agentSteps as s).result = s.result := by
  induction as generalizing s with
  | nil => rfl
  | cons a as ih => simp [agentSteps, ih]
@[simp] theorem agentSteps_portAnswers (as : List AgentStep) (s : State) :
    (agentSteps as s).portAnswers = s.portAnswers := by
  induction as generalizing s with
  | nil => rfl
  | cons a as ih => simp [agentSteps, ih]

/-! ### Port requests: they change the device only, and count the draws of a RESET read -/

@[simp] theorem portRow_ctl (i : Instr) (s : State) : ((portRow i s).2).ctl = s.ctl := by cases i <;> rfl
@[simp] theorem portRow_env (i : Instr) (s : State) : ((portRow i s).2).env = s.env := by cases i <;> rfl
@[simp] theorem portRow_mem (i : Instr) (s : State) : ((portRow i s).2).mem = s.mem := by cases i <;> rfl
@[simp] theorem portRow_faults (i : Instr) (s : State) : ((portRow i s).2).faults = s.faults := by cases i <;> rfl
@[simp] theorem portRow_refusal (i : Instr) (s : State) : ((portRow i s).2).refusal = s.refusal := by cases i <;> rfl
@[simp] theorem portRow_cfg (i : Instr) (s : State) : ((portRow i s).2).cfg = s.cfg := by cases i <;> rfl
@[simp] theorem portRow_agenda (i : Instr) (s : State) : ((portRow i s).2).agenda = s.agenda := by cases i <;> rfl
@[simp] theorem portRow_interleave (i : Instr) (s : State) :
    ((portRow i s).2).interleave = s.interleave := by cases i <;> rfl
@[simp] theorem portRow_result (i : Instr) (s : State) : ((portRow i s).2).result = s.result := by cases i <;> rfl
@[simp] theorem portRow_portAnswers (i : Instr) (s : State) :
    ((portRow i s).2).portAnswers = s.portAnswers := by cases i <;> rfl

@[simp] theorem portRead_ctl (z : BitVec 2) (o : BitVec 5) (s : State) :
    ((portRead z o s).2).ctl = s.ctl := by unfold portRead; split <;> simp
@[simp] theorem portRead_env (z : BitVec 2) (o : BitVec 5) (s : State) :
    ((portRead z o s).2).env = s.env := by unfold portRead; split <;> simp
@[simp] theorem portRead_mem (z : BitVec 2) (o : BitVec 5) (s : State) :
    ((portRead z o s).2).mem = s.mem := by unfold portRead; split <;> simp
@[simp] theorem portRead_faults (z : BitVec 2) (o : BitVec 5) (s : State) :
    ((portRead z o s).2).faults = s.faults := by unfold portRead; split <;> simp
@[simp] theorem portRead_refusal (z : BitVec 2) (o : BitVec 5) (s : State) :
    ((portRead z o s).2).refusal = s.refusal := by unfold portRead; split <;> simp
@[simp] theorem portRead_cfg (z : BitVec 2) (o : BitVec 5) (s : State) :
    ((portRead z o s).2).cfg = s.cfg := by unfold portRead; split <;> simp
@[simp] theorem portRead_agenda (z : BitVec 2) (o : BitVec 5) (s : State) :
    ((portRead z o s).2).agenda = s.agenda := by unfold portRead; split <;> simp
@[simp] theorem portRead_interleave (z : BitVec 2) (o : BitVec 5) (s : State) :
    ((portRead z o s).2).interleave = s.interleave := by unfold portRead; split <;> simp
@[simp] theorem portRead_result (z : BitVec 2) (o : BitVec 5) (s : State) :
    ((portRead z o s).2).result = s.result := by unfold portRead; split <;> simp
@[simp] theorem portRead_portAnswers (z : BitVec 2) (o : BitVec 5) (s : State) :
    ((portRead z o s).2).portAnswers = s.portAnswers := by unfold portRead; split <;> simp

@[simp] theorem portWrite_ctl (z : BitVec 2) (o : BitVec 5) (v : Word) (s : State) :
    (portWrite z o v s).ctl = s.ctl := by unfold portWrite; split <;> simp
@[simp] theorem portWrite_env (z : BitVec 2) (o : BitVec 5) (v : Word) (s : State) :
    (portWrite z o v s).env = s.env := by unfold portWrite; split <;> simp
@[simp] theorem portWrite_mem (z : BitVec 2) (o : BitVec 5) (v : Word) (s : State) :
    (portWrite z o v s).mem = s.mem := by unfold portWrite; split <;> simp
@[simp] theorem portWrite_faults (z : BitVec 2) (o : BitVec 5) (v : Word) (s : State) :
    (portWrite z o v s).faults = s.faults := by unfold portWrite; split <;> simp
@[simp] theorem portWrite_refusal (z : BitVec 2) (o : BitVec 5) (v : Word) (s : State) :
    (portWrite z o v s).refusal = s.refusal := by unfold portWrite; split <;> simp
@[simp] theorem portWrite_cfg (z : BitVec 2) (o : BitVec 5) (v : Word) (s : State) :
    (portWrite z o v s).cfg = s.cfg := by unfold portWrite; split <;> simp
@[simp] theorem portWrite_agenda (z : BitVec 2) (o : BitVec 5) (v : Word) (s : State) :
    (portWrite z o v s).agenda = s.agenda := by unfold portWrite; split <;> simp
@[simp] theorem portWrite_interleave (z : BitVec 2) (o : BitVec 5) (v : Word) (s : State) :
    (portWrite z o v s).interleave = s.interleave := by unfold portWrite; split <;> simp
@[simp] theorem portWrite_result (z : BitVec 2) (o : BitVec 5) (v : Word) (s : State) :
    (portWrite z o v s).result = s.result := by unfold portWrite; split <;> simp
@[simp] theorem portWrite_portAnswers (z : BitVec 2) (o : BitVec 5) (v : Word) (s : State) :
    (portWrite z o v s).portAnswers = s.portAnswers := by unfold portWrite; split <;> simp

/-! ### Moves between two steps of an operation -/

@[simp] theorem hostPort_ctl (w : Byte) (data : List Byte) (s : State) :
    (hostPort w data s).ctl = s.ctl := by unfold hostPort; split <;> simp
@[simp] theorem hostPort_env (w : Byte) (data : List Byte) (s : State) :
    (hostPort w data s).env = s.env := by unfold hostPort; split <;> simp
@[simp] theorem hostPort_mem (w : Byte) (data : List Byte) (s : State) :
    (hostPort w data s).mem = s.mem := by unfold hostPort; split <;> simp
@[simp] theorem hostPort_faults (w : Byte) (data : List Byte) (s : State) :
    (hostPort w data s).faults = s.faults := by unfold hostPort; split <;> simp
@[simp] theorem hostPort_refusal (w : Byte) (data : List Byte) (s : State) :
    (hostPort w data s).refusal = s.refusal := by unfold hostPort; split <;> simp
@[simp] theorem hostPort_cfg (w : Byte) (data : List Byte) (s : State) :
    (hostPort w data s).cfg = s.cfg := by unfold hostPort; split <;> simp
@[simp] theorem hostPort_agenda (w : Byte) (data : List Byte) (s : State) :
    (hostPort w data s).agenda = s.agenda := by unfold hostPort; split <;> simp
@[simp] theorem hostPort_interleave (w : Byte) (data : List Byte) (s : State) :
    (hostPort w data s).interleave = s.interleave := by unfold hostPort; split <;> simp
@[simp] theorem hostPort_result (w : Byte) (data : List Byte) (s : State) :
    (hostPort w data s).result = s.result := by unfold hostPort; split <;> simp

@[simp] theorem move_ctl (m : Move) (s : State) : (move m s).ctl = s.ctl := by
  unfold move; split
  · rfl
  · cases m <;> simp
@[simp] theorem move_cfg (m : Move) (s : State) : (move m s).cfg = s.cfg := by
  unfold move; split
  · rfl
  · cases m <;> simp
@[simp] theorem move_agenda (m : Move) (s : State) : (move m s).agenda = s.agenda := by
  unfold move; split
  · rfl
  · cases m <;> simp
@[simp] theorem move_interleave (m : Move) (s : State) : (move m s).interleave = s.interleave := by
  unfold move; split
  · rfl
  · cases m <;> simp
@[simp] theorem move_result (m : Move) (s : State) : (move m s).result = s.result := by
  unfold move; split
  · rfl
  · cases m <;> simp

@[simp] theorem moves_ctl (ms : List Move) (s : State) : (moves ms s).ctl = s.ctl := by
  induction ms generalizing s with
  | nil => rfl
  | cons m ms ih => simp [moves, ih]
@[simp] theorem moves_cfg (ms : List Move) (s : State) : (moves ms s).cfg = s.cfg := by
  induction ms generalizing s with
  | nil => rfl
  | cons m ms ih => simp [moves, ih]
@[simp] theorem moves_agenda (ms : List Move) (s : State) : (moves ms s).agenda = s.agenda := by
  induction ms generalizing s with
  | nil => rfl
  | cons m ms ih => simp [moves, ih]
@[simp] theorem moves_interleave (ms : List Move) (s : State) : (moves ms s).interleave = s.interleave := by
  induction ms generalizing s with
  | nil => rfl
  | cons m ms ih => simp [moves, ih]
@[simp] theorem moves_result (ms : List Move) (s : State) : (moves ms s).result = s.result := by
  induction ms generalizing s with
  | nil => rfl
  | cons m ms ih => simp [moves, ih]

/-- Moves that are steps of other agents are those steps. -/
theorem moves_agent (as : List AgentStep) (s : State) : moves (as.map .agent) s = agentSteps as s := by
  induction as generalizing s with
  | nil => rfl
  | cons a as ih =>
    have h : move (.agent a) s = agentStep a s := by
      unfold move
      split
      · simp only [agentStep, *]
      · rfl
    simp only [List.map_cons, moves, agentSteps, h, ih]

@[simp] theorem otherAgents_ctl (s : State) :
    (otherAgents s).ctl = s.ctl := by unfold otherAgents; split <;> simp
@[simp] theorem otherAgents_cfg (s : State) :
    (otherAgents s).cfg = s.cfg := by unfold otherAgents; split <;> simp
@[simp] theorem otherAgents_agenda (s : State) :
    (otherAgents s).agenda = s.agenda := by unfold otherAgents; split <;> simp
@[simp] theorem otherAgents_result (s : State) :
    (otherAgents s).result = s.result := by unfold otherAgents; split <;> simp

/-! ### Boundaries -/

/-- With nothing scheduled inside the operation, a boundary changes nothing. -/
theorem boundary_alone {s : State} (hi : s.interleave = []) (hr : s.refusal = none) (k : State → Out) :
    boundary s k = k s := by
  unfold boundary otherAgents
  simp only [hi, hr]

/-- A boundary with moves scheduled takes them, and the operation goes on when they leave the run live. -/
theorem boundary_moves {s : State} {ms : List Move} {rest : List (List Move)} (hi : s.interleave = ms :: rest)
    (hr : (moves ms { s with interleave := rest }).refusal = none) (k : State → Out) :
    boundary s k = k (moves ms { s with interleave := rest }) := by
  unfold boundary otherAgents
  simp only [hi, hr]

/-- At a boundary others move; then the operation goes on, or ends there because the run was refused. -/
theorem boundary_cases (s : State) (k : State → Out) :
    (∃ r, (otherAgents s).refusal = some r ∧ boundary s k = .next (otherAgents s)) ∨
    ((otherAgents s).refusal = none ∧ boundary s k = k (otherAgents s)) := by
  unfold boundary
  cases h : (otherAgents s).refusal with
  | none => exact Or.inr ⟨rfl, by simp only [h]⟩
  | some r => exact Or.inl ⟨r, rfl, by simp only [h]⟩

/-- A property that agent steps, port requests and their answers keep, and that does not look at the schedule: it is
carried through a controller operation, whatever others do in between. -/
structure Carried (P : State → Prop) : Prop where
  agent : ∀ a s, P s → P (agentStep a s)
  port : ∀ i s, P s → P (portRow i s).2
  answer : ∀ s r, P s → P { s with portAnswers := s.portAnswers ++ [r] }
  pop : ∀ s l, P s → P { s with interleave := l }

theorem Carried.hostPort {P : State → Prop} (h : Carried P) (w : Byte) (data : List Byte) {s : State} (hs : P s) :
    P (hostPort w data s) := by
  unfold Machine.hostPort
  split
  · rename_i i _
    have ha := fun r => h.answer _ r (h.port i _ hs)
    simp only [portRow_portAnswers] at ha
    exact ha _
  · exact h.answer _ _ hs
  · exact hs
  · exact hs

theorem Carried.move {P : State → Prop} (h : Carried P) (m : Move) {s : State} (hs : P s) : P (move m s) := by
  unfold Machine.move
  split
  · exact hs
  · cases m with
    | agent a => exact h.agent a s hs
    | port w data => exact h.hostPort w data hs

theorem Carried.moves {P : State → Prop} (h : Carried P) (ms : List Move) {s : State} (hs : P s) : P (moves ms s) := by
  induction ms generalizing s with
  | nil => exact hs
  | cons m ms ih => exact ih (h.move m hs)

theorem Carried.otherAgents {P : State → Prop} (h : Carried P) {s : State} (hs : P s) : P (otherAgents s) := by
  unfold Machine.otherAgents
  split
  · exact hs
  · exact h.moves _ (h.pop _ _ hs)

theorem Carried.and {P Q : State → Prop} (hP : Carried P) (hQ : Carried Q) : Carried fun s => P s ∧ Q s where
  agent a s h := ⟨hP.agent a s h.1, hQ.agent a s h.2⟩
  port i s h := ⟨hP.port i s h.1, hQ.port i s h.2⟩
  answer s r h := ⟨hP.answer s r h.1, hQ.answer s r h.2⟩
  pop s l h := ⟨hP.pop s l h.1, hQ.pop s l h.2⟩

/-- What the controller holds is untouched by others. -/
theorem carried_ctl (c : Ctl) : Carried fun s => s.ctl = c :=
  ⟨fun a s h => by simpa using h, fun i s h => by simpa using h, fun _ _ h => h, fun _ _ h => h⟩

/-- The parameters are untouched by others. -/
theorem carried_cfg (p : Params) : Carried fun s => s.cfg = p :=
  ⟨fun a s h => by simpa using h, fun i s h => by simpa using h, fun _ _ h => h, fun _ _ h => h⟩

/-- From every live state with `P`, the rest of the operation ends in states with `Q`. -/
def KeepsFrom (P Q : State → Prop) (k : State → Out) : Prop := ∀ t, P t → t.refusal = none → Keeps Q (k t)

/-- A run refused at a boundary ends the operation there. -/
def EndsWell (P Q : State → Prop) : Prop := ∀ t r, P t → t.refusal = some r → Q t

theorem Carried.boundary {P Q : State → Prop} {s : State} (h : Carried P) (hR : EndsWell P Q) (hs : P s)
    {k : State → Out} (hk : KeepsFrom P Q k) : Keeps Q (boundary s k) := by
  rcases boundary_cases s k with ⟨r, hr, e⟩ | ⟨hr, e⟩
  · rw [e]; exact keeps_next (hR _ r (h.otherAgents hs) hr)
  · rw [e]; exact hk _ (h.otherAgents hs) hr

end Sys2Proof.Machine
end

