-- ==== Sys2Proof/Laws/Port.lean ====
section
/-!
SUPPORT. Laws/Port.lean: what each port access of the controller answers and does in each decoder mode, and what the
RegisterAccess calls do when no other agent steps inside them.
-/

namespace Sys2Proof.Machine

/-! ### Rows -/

/-- A read row in its mode answers its value. -/
theorem readMeaning_in_mode {m : RowMode} {s : State} (hr : s.refusal = none) (hm : modeAdmits m s.dev.dwio = true)
    (n : Nat) (v : Word) (t : State) : readMeaning m n v t s = .next { t with result := .read n v } := by
  unfold readMeaning
  rw [whenLive_live hr, if_pos hm]
  rfl

/-- A read row in the other mode answers all ones. -/
theorem readMeaning_other_mode {m : RowMode} {s : State} (hr : s.refusal = none)
    (hm : modeAdmits m s.dev.dwio = false) (n : Nat) (v : Word) (t : State) :
    readMeaning m n v t s = .next { s with result := .read n (allOnes n) } := by
  unfold readMeaning
  rw [whenLive_live hr, if_neg (by rw [hm]; exact Bool.false_ne_true)]
  rfl

/-- A write row in its mode has its effect. -/
theorem writeMeaning_in_mode {m : RowMode} {s : State} (hr : s.refusal = none) (hm : modeAdmits m s.dev.dwio = true)
    (t : State) : writeMeaning m t s = .next { t with result := .written } := by
  unfold writeMeaning
  rw [whenLive_live hr, if_pos hm]
  rfl

/-- A write row in the other mode has no effect. -/
theorem writeMeaning_other_mode {m : RowMode} {s : State} (hr : s.refusal = none)
    (hm : modeAdmits m s.dev.dwio = false) (t : State) : writeMeaning m t s = .next { s with result := .written } := by
  unfold writeMeaning
  rw [whenLive_live hr, if_neg (by rw [hm]; exact Bool.false_ne_true)]
  rfl

theorem modeAdmits_any (d : Bool) : modeAdmits .any d = true := rfl

theorem modeAdmits_wio {d : Bool} (h : d = false) : modeAdmits .wio d = true := by rw [h]; rfl

theorem modeAdmits_dwio {d : Bool} (h : d = true) : modeAdmits .dwio d = true := by rw [h]; rfl

/-! ### Data words -/

/-- The four bytes of a dword, put together again. -/
theorem word_of_wordBytes (v : Word) :
    (v.extractLsb' 24 8 ++ v.extractLsb' 16 8 ++ v.extractLsb' 8 8 ++ v.extractLsb' 0 8 : Word) = v := by
  ext i hi
  simp only [BitVec.getElem_append, BitVec.getElem_extractLsb']
  split_ifs with h1 h2 h3 <;> rw [BitVec.getLsbD_eq_getElem (by omega)] <;> congr 1 <;> omega

@[simp] theorem registerData_setWidth (v : Half) : registerData (v.setWidth 32) = v := by
  unfold registerData
  ext i hi
  simp [show i < 32 by omega, BitVec.getLsbD_eq_getElem hi]

@[simp] theorem registerData_registerData (v : Word) :
    registerData ((registerData v).setWidth 32) = registerData v := registerData_setWidth _

/-- The bytes a word port write carries are the data's low half. -/
theorem low_bytes_eq_registerData (v : Word) :
    (v.extractLsb' 8 8 ++ v.extractLsb' 0 8 : Half) = registerData v := low_half_of_bytes v

/-! ### Word mode -/

theorem portWrite_rap_wio {s : State} (h : s.dev.dwio = false) (v : Word) :
    portWrite szWord 0x12 v s = writeRap (registerData v) s := by
  rw [← low_bytes_eq_registerData]
  unfold portWrite; rw [h]; rfl

theorem portWrite_rdp_wio {s : State} (h : s.dev.dwio = false) (v : Word) :
    portWrite szWord 0x10 v s = writeRdp (registerData v) s := by
  rw [← low_bytes_eq_registerData]
  unfold portWrite; rw [h]; rfl

theorem portWrite_bdp_wio {s : State} (h : s.dev.dwio = false) (v : Word) :
    portWrite szWord 0x16 v s = writeBdp (registerData v) s := by
  rw [← low_bytes_eq_registerData]
  unfold portWrite; rw [h]; rfl

theorem portRead_rdp_wio {s : State} (h : s.dev.dwio = false) : portRead szWord 0x10 s = (readRdp s, s) := by
  unfold portRead; rw [h]; rfl

theorem portRead_rap_wio {s : State} (h : s.dev.dwio = false) : portRead szWord 0x12 s = (readRap s, s) := by
  unfold portRead; rw [h]; rfl

theorem portRead_bdp_wio {s : State} (h : s.dev.dwio = false) : portRead szWord 0x16 s = (readBdp s, s) := by
  unfold portRead; rw [h]; rfl

theorem portRead_reset_wio {s : State} (h : s.dev.dwio = false) :
    (portRead szWord 0x14 s).2 = readReset s := by
  unfold portRead; rw [h]; rfl

/-! ### Dword mode -/

theorem portWrite_rap_dwio {s : State} (h : s.dev.dwio = true) (v : Word) :
    portWrite szDword 0x14 v s = writeRap (registerData v) s := by
  conv_rhs => rw [← word_of_wordBytes v]
  unfold portWrite; rw [h]; rfl

theorem portWrite_rdp_dwio {s : State} (h : s.dev.dwio = true) (v : Word) :
    portWrite szDword 0x10 v s = writeRdp (registerData v) s := by
  conv_rhs => rw [← word_of_wordBytes v]
  unfold portWrite; rw [h]; rfl

theorem portWrite_bdp_dwio {s : State} (h : s.dev.dwio = true) (v : Word) :
    portWrite szDword 0x1C v s = writeBdp (registerData v) s := by
  conv_rhs => rw [← word_of_wordBytes v]
  unfold portWrite; rw [h]; rfl

theorem portRead_rdp_dwio {s : State} (h : s.dev.dwio = true) : portRead szDword 0x10 s = (readRdp s, s) := by
  unfold portRead; rw [h]; rfl

theorem portRead_rap_dwio {s : State} (h : s.dev.dwio = true) : portRead szDword 0x14 s = (readRap s, s) := by
  unfold portRead; rw [h]; rfl

theorem portRead_bdp_dwio {s : State} (h : s.dev.dwio = true) : portRead szDword 0x1C s = (readBdp s, s) := by
  unfold portRead; rw [h]; rfl

theorem portRead_reset_dwio {s : State} (h : s.dev.dwio = true) :
    (portRead szDword 0x18 s).2 = readReset s := by
  unfold portRead; rw [h]; rfl

/-! ### The probe's accesses in the other mode -/

theorem portRead_word_dwio {s : State} (h : s.dev.dwio = true) (o : BitVec 5) (ho : o = 0x14 ∨ o = 0x12) :
    portRead szWord o s = (0xFFFF, s) := by
  unfold portRead; rw [h]; rcases ho with rfl | rfl <;> rfl

theorem portWrite_word_dwio {s : State} (h : s.dev.dwio = true) (v : Word) :
    portWrite szWord 0x12 v s = s := by
  unfold portWrite; rw [h]; rfl

theorem portRead_dword_wio {s : State} (h : s.dev.dwio = false) (o : BitVec 5) (ho : o = 0x18 ∨ o = 0x14) :
    portRead szDword o s = (0xFFFFFFFF, s) := by
  unfold portRead; rw [h]; rcases ho with rfl | rfl <;> rfl

theorem portWrite_dword_wio {s : State} (h : s.dev.dwio = false) (v : Word) :
    portWrite szDword 0x14 v s = s := by
  unfold portWrite; rw [h]; rfl

/-- A byte read of the address PROM answers the byte in either mode. -/
theorem portRead_aprom (s : State) (k : BitVec 4) :
    portRead szByte (k.setWidth 5) s = ((apromByte s.cfg k).setWidth 32, s) := by
  have hw : pioWord false szByte (k.setWidth 5) &&& 0xF0 = 0 := by revert k; decide
  have hk : (pioWord false szByte (k.setWidth 5)).extractLsb' 0 4 = k := by revert k; decide
  unfold portRead decodePio
  rw [if_pos hw, hk]
  rfl

/-! ### Calls with no other agent inside -/

section Alone

variable {s : State}

theorem ctlRead_alone (hi : s.interleave = []) (hr : s.refusal = none) (z : BitVec 2) (o : BitVec 5)
    (k : Word → State → Out) : ctlRead z o s k = k (portRead z o s).1 (portRead z o s).2 := by
  unfold ctlRead
  exact boundary_alone (by simpa using hi) (by simpa using hr) _

theorem ctlWrite_alone (hi : s.interleave = []) (hr : s.refusal = none) (z : BitVec 2) (o : BitVec 5) (v : Word)
    (k : State → Out) : ctlWrite z o v s k = k (portWrite z o v s) := by
  unfold ctlWrite
  exact boundary_alone (by simpa using hi) (by simpa using hr) _

/-- The decoder mode an access mode's calls are decoded in (40_register_access.md R181 to R185). -/
theorem accessMode_cases (m : AccessMode) : m = .word ∨ m = .dword := by cases m <;> simp

theorem getCsr_alone {m : AccessMode} (hm : s.dev.dwio = (m == .dword)) (hi : s.interleave = [])
    (hr : s.refusal = none) (n : Word) (k : Word → State → Out) :
    getCsr m n s k =
      k (readRdp (writeRap (registerData n) s)) (writeRap (registerData n) s) := by
  rcases accessMode_cases m with rfl | rfl
  · have hd : s.dev.dwio = false := hm
    unfold getCsr
    dsimp only
    rw [ctlWrite_alone hi hr, portWrite_rap_wio hd, ctlRead_alone (by simpa using hi) (by simpa using hr),
      portRead_rdp_wio (by simpa using hd)]
  · have hd : s.dev.dwio = true := hm
    unfold getCsr
    dsimp only
    rw [ctlWrite_alone hi hr, portWrite_rap_dwio hd, ctlRead_alone (by simpa using hi) (by simpa using hr),
      portRead_rdp_dwio (by simpa using hd)]

/-- A CSR read with moves at its second boundary, after the value is read: the value is that of before the moves. -/
theorem getCsr_then_moves {m : AccessMode} {ms : List Move} (hm : s.dev.dwio = (m == .dword))
    (hi : s.interleave = [[], ms]) (hr : s.refusal = none) (n : Word) (k : Word → State → Out)
    (hu : (moves ms { writeRap (registerData n) s with interleave := [] }).refusal = none) :
    getCsr m n s k =
      k (readRdp (writeRap (registerData n) s)) (moves ms { writeRap (registerData n) s with interleave := [] }) := by
  have hb (k : State → Out) : boundary (writeRap (registerData n) s) k =
      k { writeRap (registerData n) s with interleave := [ms] } :=
    boundary_moves (s := writeRap (registerData n) s) (ms := []) hi hr k
  rcases accessMode_cases m with rfl | rfl
  · have hd : s.dev.dwio = false := hm
    unfold getCsr ctlWrite ctlRead
    dsimp only
    rw [portWrite_rap_wio hd, hb, portRead_rdp_wio (by exact hd)]
    exact boundary_moves (s := { writeRap (registerData n) s with interleave := [ms] }) rfl hu _
  · have hd : s.dev.dwio = true := hm
    unfold getCsr ctlWrite ctlRead
    dsimp only
    rw [portWrite_rap_dwio hd, hb, portRead_rdp_dwio (by exact hd)]
    exact boundary_moves (s := { writeRap (registerData n) s with interleave := [ms] }) rfl hu _

theorem setCsr_alone {m : AccessMode} (hm : s.dev.dwio = (m == .dword)) (hi : s.interleave = [])
    (hr : s.refusal = none) (n v : Word) (k : State → Out) :
    setCsr m n v s k = k (writeRdp (registerData v) (writeRap (registerData n) s)) := by
  rcases accessMode_cases m with rfl | rfl
  · have hd : s.dev.dwio = false := hm
    unfold setCsr
    dsimp only
    rw [ctlWrite_alone hi hr, portWrite_rap_wio hd, ctlWrite_alone (by simpa using hi) (by simpa using hr),
      portWrite_rdp_wio (by simpa using hd)]
  · have hd : s.dev.dwio = true := hm
    unfold setCsr
    dsimp only
    rw [ctlWrite_alone hi hr, portWrite_rap_dwio hd, ctlWrite_alone (by simpa using hi) (by simpa using hr),
      portWrite_rdp_dwio (by simpa using hd), registerData_registerData]

theorem getBcr_alone {m : AccessMode} (hm : s.dev.dwio = (m == .dword)) (hi : s.interleave = [])
    (hr : s.refusal = none) (n : Word) (k : Word → State → Out) :
    getBcr m n s k =
      k (readBdp (writeRap (registerData n) s)) (writeRap (registerData n) s) := by
  rcases accessMode_cases m with rfl | rfl
  · have hd : s.dev.dwio = false := hm
    unfold getBcr
    dsimp only
    rw [ctlWrite_alone hi hr, portWrite_rap_wio hd, ctlRead_alone (by simpa using hi) (by simpa using hr),
      portRead_bdp_wio (by simpa using hd)]
  · have hd : s.dev.dwio = true := hm
    unfold getBcr
    dsimp only
    rw [ctlWrite_alone hi hr, portWrite_rap_dwio hd, ctlRead_alone (by simpa using hi) (by simpa using hr),
      portRead_bdp_dwio (by simpa using hd)]

theorem setBcr_alone {m : AccessMode} (hm : s.dev.dwio = (m == .dword)) (hi : s.interleave = [])
    (hr : s.refusal = none) (n v : Word) (k : State → Out) :
    setBcr m n v s k = k (writeBdp (registerData v) (writeRap (registerData n) s)) := by
  rcases accessMode_cases m with rfl | rfl
  · have hd : s.dev.dwio = false := hm
    unfold setBcr
    dsimp only
    rw [ctlWrite_alone hi hr, portWrite_rap_wio hd, ctlWrite_alone (by simpa using hi) (by simpa using hr),
      portWrite_bdp_wio (by simpa using hd)]
  · have hd : s.dev.dwio = true := hm
    unfold setBcr
    dsimp only
    rw [ctlWrite_alone hi hr, portWrite_rap_dwio hd, ctlWrite_alone (by simpa using hi) (by simpa using hr),
      portWrite_bdp_dwio (by simpa using hd), registerData_registerData]

theorem resetDevice_alone {m : AccessMode} (hm : s.dev.dwio = (m == .dword)) (hi : s.interleave = [])
    (hr : s.refusal = none) (k : State → Out) : resetDevice m s k = k (readReset s) := by
  rcases accessMode_cases m with rfl | rfl
  · have hd : s.dev.dwio = false := hm
    unfold resetDevice
    dsimp only
    rw [ctlRead_alone hi hr, portRead_reset_wio hd]
  · have hd : s.dev.dwio = true := hm
    unfold resetDevice
    dsimp only
    rw [ctlRead_alone hi hr, portRead_reset_dwio hd]

end Alone

end Sys2Proof.Machine
end

