-- ==== Sys2Proof/Laws/Device.lean ====
section
/-!
SUPPORT. Laws/Device.lean: what the device's register operations and engine steps do to the device: the case lemmas of the
CSR0 write, and the ranges and flag relations of `Dev.Inv` operation by operation.
-/

namespace Sys2Proof.Machine

/-! ### The CSR0 write -/

/-- INIT and STRT of a CSR0 write do one of four things (R205, R206). -/
theorem commandInitStrt_cases (d : Dev) (v : Half) :
    (d.devState = .stopped ∧ v.getLsbD 0 = true ∧
      commandInitStrt d v =
        { d with csr0 := { d.csr0 with init := true }, devState := .initPending, pendingStart := v.getLsbD 1 }) ∨
    (d.devState = .inited ∧ v.getLsbD 1 = true ∧ commandInitStrt d v = devStart d) ∨
    (d.devState = .initPending ∧ v.getLsbD 1 = true ∧ commandInitStrt d v = { d with pendingStart := true }) ∨
    commandInitStrt d v = d := by
  unfold commandInitStrt
  by_cases h0 : v.getLsbD 0 = true <;> by_cases h1 : v.getLsbD 1 = true <;> cases hd : d.devState <;>
    simp_all

/-- TDMD of a CSR0 write is taken only when RUNNING with TXON (R207). -/
theorem commandTdmd_cases (d : Dev) (v : Half) :
    (v.getLsbD 3 = true ∧ d.devState = .running ∧ d.csr0.txon = true ∧
      commandTdmd d v = { d with csr0 := { d.csr0 with tdmd := true } }) ∨ commandTdmd d v = d := by
  unfold commandTdmd
  split_ifs with h
  · simp only [Bool.and_eq_true, beq_iff_eq] at h
    exact Or.inl ⟨h.1.1, h.1.2, h.2, rfl⟩
  · exact Or.inr rfl

/-! ### The invariant of the device, operation by operation -/

/-- Only a STOPPED device has the STOP value in CSR0 (log entry 22). -/
theorem Dev.Inv.not_atStop {d : Dev} {p : Prop} (h : d.Inv) (hs : d.devState ≠ .stopped) (ha : d.atStop = true) : p :=
  absurd (h.atStop ha).1 hs

theorem devStart_inv {d : Dev} (h : d.Inv) (hs : d.devState = .inited) : (devStart d).Inv where
  rlen := h.rlen
  tlen := h.tlen
  rxCurDev := h.rxCurDev
  txCurDev := h.txCurDev
  rdra := h.rdra
  tdra := h.tdra
  pendingStart := fun hp => by have := h.pendingStart hp; simp [hs] at this
  init := by have := h.init; simp [hs] at this; simp [devStart, this]
  strt := by simp [devStart]
  rxon := by simp [devStart]
  txon := by simp [devStart]
  tdmd := fun ht => by have := (h.txon (h.tdmd ht)).1; simp [hs] at this
  style := fun _ => h.style (Or.inl hs)
  quiet := by simp [devStart]
  atStop := h.not_atStop (by simp [hs])

theorem Csr0.clear_quiet : Csr0.clear.Quiet := ⟨rfl, rfl, rfl, rfl, rfl, rfl⟩

theorem devStop_inv {d : Dev} (h : d.Inv) : (devStop d).Inv where
  rlen := h.rlen
  tlen := h.tlen
  rxCurDev := h.rxCurDev
  txCurDev := h.txCurDev
  rdra := h.rdra
  tdra := h.tdra
  pendingStart := by simp [devStop]
  init := by simp [devStop, Csr0.clear]
  strt := by simp [devStop, Csr0.clear]
  rxon := by simp [devStop, Csr0.clear]
  txon := by simp [devStop, Csr0.clear]
  tdmd := by simp [devStop, Csr0.clear]
  style := by simp [devStop]
  quiet := fun _ => Csr0.clear_quiet
  atStop := fun _ => ⟨rfl, rfl⟩

theorem devSReset_inv {d : Dev} (h : d.Inv) : (devSReset d).Inv where
  rlen := h.rlen
  tlen := h.tlen
  rxCurDev := h.rxCurDev
  txCurDev := h.txCurDev
  rdra := h.rdra
  tdra := h.tdra
  pendingStart := by simp [devSReset]
  init := by simp [devSReset, Csr0.clear]
  strt := by simp [devSReset, Csr0.clear]
  rxon := by simp [devSReset, Csr0.clear]
  txon := by simp [devSReset, Csr0.clear]
  tdmd := by simp [devSReset, Csr0.clear]
  style := by simp [devSReset]
  quiet := fun _ => Csr0.clear_quiet
  atStop := fun ha => by simp at ha

/-- A change of the W1C flags and IENA alone keeps the invariant, where it raises no flag of a device that is not running
and the STOP value of CSR0 has ended. -/
theorem flags_inv {d : Dev} (h : d.Inv) (babl cerr miss merr rint tint idon iena : Bool)
    (hq : d.devState = .stopped ∨ d.devState = .initPending →
      Csr0.Quiet { d.csr0 with babl, cerr, miss, merr, rint, tint, idon, iena })
    (ha : d.atStop = false) :
    Dev.Inv { d with csr0 := { d.csr0 with babl, cerr, miss, merr, rint, tint, idon, iena } } where
  rlen := h.rlen
  tlen := h.tlen
  rxCurDev := h.rxCurDev
  txCurDev := h.txCurDev
  rdra := h.rdra
  tdra := h.tdra
  pendingStart := h.pendingStart
  init := h.init
  strt := h.strt
  rxon := h.rxon
  txon := h.txon
  tdmd := h.tdmd
  style := h.style
  quiet := hq
  atStop := fun h => by simp [ha] at h

/-- A flag of a RUNNING device may be raised. -/
theorem running_flags_inv {d : Dev} (h : d.Inv) (hs : d.devState = .running)
    (babl cerr miss merr rint tint idon iena : Bool) :
    Dev.Inv { d with csr0 := { d.csr0 with babl, cerr, miss, merr, rint, tint, idon, iena } } :=
  flags_inv h _ _ _ _ _ _ _ _ (by simp [hs]) (by
    cases ha : d.atStop with
    | false => rfl
    | true => exact h.not_atStop (by simp [hs]) ha)

/-- The end of the STOP value of CSR0 keeps the invariant. -/
theorem endStop_inv {d : Dev} (h : d.Inv) : Dev.Inv { d with atStop := false } where
  rlen := h.rlen
  tlen := h.tlen
  rxCurDev := h.rxCurDev
  txCurDev := h.txCurDev
  rdra := h.rdra
  tdra := h.tdra
  pendingStart := h.pendingStart
  init := h.init
  strt := h.strt
  rxon := h.rxon
  txon := h.txon
  tdmd := h.tdmd
  style := h.style
  quiet := h.quiet
  atStop := fun ha => by simp at ha

/-- A change of RAP, the decoder mode, IADR, CSR4 or CSR112 alone keeps the invariant. -/
theorem registers_inv {d : Dev} (h : d.Inv) (dwio : Bool) (rap : Byte) (csr1 csr2 csr112 : Half) (csr4 : Csr4) :
    Dev.Inv { d with dwio, rap, csr1, csr2, csr4, csr112 } where
  rlen := h.rlen
  tlen := h.tlen
  rxCurDev := h.rxCurDev
  txCurDev := h.txCurDev
  rdra := h.rdra
  tdra := h.tdra
  pendingStart := h.pendingStart
  init := h.init
  strt := h.strt
  rxon := h.rxon
  txon := h.txon
  tdmd := h.tdmd
  style := h.style
  quiet := h.quiet
  atStop := h.atStop

theorem commandInitStrt_inv {d : Dev} (h : d.Inv) (ha : d.atStop = false) (v : Half) : (commandInitStrt d v).Inv := by
  rcases commandInitStrt_cases d v with ⟨hs, _, e⟩ | ⟨hs, _, e⟩ | ⟨hs, _, e⟩ | e
  · have hx : d.csr0.rxon = false := by
      cases hx : d.csr0.rxon with
      | false => rfl
      | true => have := (h.rxon hx).1; simp [hs] at this
    have ht : d.csr0.txon = false := by
      cases hx : d.csr0.txon with
      | false => rfl
      | true => have := (h.txon hx).1; simp [hs] at this
    have hd : d.csr0.tdmd = false := by
      cases hx : d.csr0.tdmd with
      | false => rfl
      | true => have := h.tdmd hx; simp [ht] at this
    have hst : d.csr0.strt = false := by
      have := h.strt; simpa [hs] using this
    rw [e]
    exact ⟨h.rlen, h.tlen, h.rxCurDev, h.txCurDev, h.rdra, h.tdra, by simp, by simp, by simp [hst], by simp [hx],
      by simp [ht], by simp [hd], by simp, fun _ => h.quiet (Or.inl hs),
      fun h => by simp [ha] at h⟩
  · rw [e]; exact devStart_inv h hs
  · rw [e]
    exact ⟨h.rlen, h.tlen, h.rxCurDev, h.txCurDev, h.rdra, h.tdra, fun _ => hs, h.init, h.strt, h.rxon, h.txon,
      h.tdmd, h.style, h.quiet, h.not_atStop (by simp [hs])⟩
  · rw [e]; exact h

theorem commandTdmd_inv {d : Dev} (h : d.Inv) (v : Half) : (commandTdmd d v).Inv := by
  rcases commandTdmd_cases d v with ⟨_, hs, ht, e⟩ | e
  · rw [e]
    exact ⟨h.rlen, h.tlen, h.rxCurDev, h.txCurDev, h.rdra, h.tdra, h.pendingStart, h.init, h.strt, h.rxon, h.txon,
      fun _ => ht, h.style, h.quiet, h.not_atStop (by simp [hs])⟩
  · rw [e]; exact h

/-- Flags that are clear stay clear when acknowledged. -/
theorem acknowledge_quiet {c : Csr0} (h : c.Quiet) (v : Half) : (acknowledge c v).Quiet := by
  obtain ⟨h1, h2, h3, h4, h5, h6⟩ := h
  simp [Csr0.Quiet, acknowledge, h1, h2, h3, h4, h5, h6]

theorem csr0Write_inv {d : Dev} (h : d.Inv) (v : Half) : (csr0Write d v).Inv := by
  have ha : Dev.Inv { d with csr0 := acknowledge d.csr0 v, atStop := false } :=
    flags_inv (endStop_inv h) _ _ _ _ _ _ _ _
      (fun hs => by simpa [Csr0.Quiet, acknowledge] using acknowledge_quiet (h.quiet hs) v) rfl
  unfold csr0Write
  dsimp only
  split_ifs with hv
  · exact devStop_inv ha
  · exact commandTdmd_inv (commandInitStrt_inv (flags_inv ha _ _ _ _ _ _ _ (v.getLsbD 6) ha.quiet rfl) rfl v) v

/-- A register write of CSR15 or BCR20 while STOPPED keeps the invariant. -/
theorem stopped_style_inv {d : Dev} (h : d.Inv) (hs : d.devState = .stopped) (csr15 : Half) (swstyle : Byte) :
    Dev.Inv { d with csr15, swstyle } where
  rlen := h.rlen
  tlen := h.tlen
  rxCurDev := h.rxCurDev
  txCurDev := h.txCurDev
  rdra := h.rdra
  tdra := h.tdra
  pendingStart := h.pendingStart
  init := h.init
  strt := h.strt
  rxon := fun hx => by have := (h.rxon hx).1; simp [hs] at this
  txon := fun hx => by have := (h.txon hx).1; simp [hs] at this
  tdmd := h.tdmd
  style := fun hx => by simp [hs] at hx
  quiet := h.quiet
  atStop := h.atStop

theorem csrWrite_inv {d : Dev} (h : d.Inv) (n : Byte) (v : Half) : (csrWrite d n v).Inv := by
  unfold csrWrite csr4Write
  split_ifs with h0 h1 hs h2 hs h4 h15 hs
  · exact csr0Write_inv h v
  · exact registers_inv h ..
  · exact h
  · exact registers_inv h ..
  · exact h
  · exact registers_inv (endStop_inv h) ..
  · exact stopped_style_inv h hs ..
  · exact h
  · exact h

theorem bcrWrite_inv {d : Dev} (h : d.Inv) (n : Byte) (v : Half) : (bcrWrite d n v).Inv := by
  unfold bcrWrite
  split_ifs with h0 hs
  · exact stopped_style_inv h hs ..
  · exact h
  · exact h

/-- Every port request keeps the invariant of the device. -/
theorem portRow_dev_inv (i : Instr) {s : State} (h : s.dev.Inv) : (portRow i s).2.dev.Inv := by
  cases i <;> simp only [portRow, enterDwio, writeRdp_dev, writeRap_dev, writeBdp_dev, readReset_dev] <;>
    first
      | exact h
      | exact csrWrite_inv h _ _
      | exact csrWrite_inv (registers_inv h ..) _ _
      | exact bcrWrite_inv h _ _
      | exact devSReset_inv h
      | exact registers_inv h ..

/-! ### Engine steps -/

theorem ringLength_range (l : BitVec 4) : 1 ≤ ringLength l ∧ ringLength l ≤ 512 := by
  revert l; decide

theorem ring_base_aligned (w : Word) : (w &&& 0xFFFFFFF0).toNat % 16 = 0 := by
  have h : ((w &&& 0xFFFFFFF0).extractLsb' 0 4) = 0 := by
    ext i hi
    simp only [BitVec.getElem_extractLsb', BitVec.getLsbD_and]
    interval_cases i <;> simp
  have := congrArg BitVec.toNat h
  simpa using this

theorem initFail_inv {d : Dev} (h : d.Inv) (hs : d.devState = .initPending) : (initFail d).Inv := by
  have hx : d.csr0.rxon = false := by
    cases hx : d.csr0.rxon with
    | false => rfl
    | true => have := (h.rxon hx).1; simp [hs] at this
  have ht : d.csr0.txon = false := by
    cases hx : d.csr0.txon with
    | false => rfl
    | true => have := (h.txon hx).1; simp [hs] at this
  have hd : d.csr0.tdmd = false := by
    cases hx : d.csr0.tdmd with
    | false => rfl
    | true => have := h.tdmd hx; simp [ht] at this
  have hst : d.csr0.strt = false := by
    have := h.strt; simpa [hs] using this
  exact ⟨h.rlen, h.tlen, h.rxCurDev, h.txCurDev, h.rdra, h.tdra, by simp [initFail], by simp [initFail],
    by simp [initFail, hst], by simp [initFail, hx], by simp [initFail, ht], by simp [initFail, hd],
    by simp [initFail], fun _ => h.quiet (Or.inr hs), h.not_atStop (by simp [hs])⟩

/-- A fetch that succeeds leaves an INITED or RUNNING device (R362). -/
theorem fetch_inv {d : Dev} (h : d.Inv) (hs : d.devState = .initPending) (hstyle : d.swstyle = 2) (m : Memory) (a : Nat)
    (hloop : (read16 m a).getLsbD 2 = false) : (startIfPending (latchInitBlock m a d)).Inv := by
  have hx : d.csr0.rxon = false := by
    cases hx : d.csr0.rxon with
    | false => rfl
    | true => have := (h.rxon hx).1; simp [hs] at this
  have ht : d.csr0.txon = false := by
    cases hx : d.csr0.txon with
    | false => rfl
    | true => have := (h.txon hx).1; simp [hs] at this
  have hd : d.csr0.tdmd = false := by
    cases hx : d.csr0.tdmd with
    | false => rfl
    | true => have := h.tdmd hx; simp [ht] at this
  have hst : d.csr0.strt = false := by
    have := h.strt; simpa [hs] using this
  have hi : d.csr0.init = true := by
    have := h.init; simpa [hs] using this
  have hl : Dev.Inv { latchInitBlock m a d with pendingStart := false } :=
    ⟨ringLength_range _, ringLength_range _, (ringLength_range _).1, (ringLength_range _).1, ring_base_aligned _,
      ring_base_aligned _, by simp, by simp [latchInitBlock, hi], by simp [latchInitBlock, hst],
      by simp [latchInitBlock, hx], by simp [latchInitBlock, ht], by simp [latchInitBlock, hd],
      fun _ => ⟨hstyle, hloop⟩, by simp [latchInitBlock], h.not_atStop (by simp [hs])⟩
  unfold startIfPending
  split_ifs with hp
  · exact devStart_inv hl rfl
  · have e : { latchInitBlock m a d with pendingStart := false } = latchInitBlock m a d := by
      have : (latchInitBlock m a d).pendingStart = false := by simpa using hp
      rw [← this]
    rwa [e] at hl

end Sys2Proof.Machine
end

