-- ==== Sys2Proof/Laws/Engine.lean ====
section
/-!
SUPPORT. Laws/Engine.lean: what the device and the environment keep at every step: the canonical form and bounds of memory,
the device's invariant and the environment's (`State.Grounded`, the part of `State.Inv` that is not the controller's).
-/

namespace Sys2Proof.Machine

/-! ### Memory inside the address space -/

/-- Every written address exists (R48). -/
def Memory.Bounded (m : Memory) : Prop := ∀ c ∈ m, c.1 < memoryTop

theorem insert_bounded {m : Memory} (h : m.Bounded) {x : Nat} (hx : x < memoryTop) (v : Byte) :
    Memory.Bounded (Memory.insert x v m) := by
  intro c hc
  rcases mem_insert hc with rfl | hc
  · exact hx
  · exact h c hc

theorem writeBytes_bounded {m : Memory} (h : m.Bounded) {a : Nat} {bs : List Byte}
    (hb : bs = [] ∨ a + bs.length ≤ memoryTop) : Memory.Bounded (writeBytes m a bs) := by
  induction bs generalizing m a with
  | nil => exact h
  | cons b bs ih =>
    have hb : a + (bs.length + 1) ≤ memoryTop := by simpa using hb
    exact ih (insert_bounded h (by omega) b) (Or.inr (by omega))

theorem write16_bounded {m : Memory} (h : m.Bounded) {a : Nat} (v : Half) (ha : a + 2 ≤ memoryTop) :
    Memory.Bounded (write16 m a v) :=
  writeBytes_bounded h (Or.inr (by simpa using ha))

/-! ### What agents keep -/

/-- The invariant without the controller's part. -/
structure State.Grounded (s : State) : Prop where
  memory : Memory.wf s.mem = true
  addresses : Memory.Bounded s.mem
  dev : s.dev.Inv
  env : s.env.Inv s.cfg

theorem putStatus_grounded {s : State} (h : s.Grounded) {d : Nat} (st : Half) (hd : d + 2 ≤ memoryTop) :
    (putStatus d st s).Grounded :=
  ⟨write16_keeps_wf _ _ _ h.memory, write16_bounded h.addresses st hd, h.dev, h.env⟩

theorem raiseFault_grounded {s : State} (h : s.Grounded) (r : FaultReason) : (raiseFault r s).Grounded :=
  ⟨h.memory, h.addresses, h.dev, h.env⟩

theorem refuse_grounded {s : State} (h : s.Grounded) (r : RefuseReason) : (refuse r s).Grounded :=
  ⟨h.memory, h.addresses, h.dev, h.env⟩

/-- Replacing the device by one that has its invariant. -/
theorem withDev_grounded {s : State} (h : s.Grounded) {d : Dev} (hd : d.Inv) :
    State.Grounded { s with dev := d } := ⟨h.memory, h.addresses, hd, h.env⟩

theorem claimDesc_grounded {s : State} (h : s.Grounded) (ring : Ring) (i : Nat) {d : Nat} (st : Half)
    (hd : d + 2 ≤ memoryTop) : (claimDesc ring i d st s).Grounded := by
  rcases claimDesc_cases ring i d st s with ⟨_, e⟩ | ⟨_, e⟩ <;> rw [e]
  · exact putStatus_grounded h st hd
  · exact raiseFault_grounded h _

theorem dmaOk_top {p : Params} {a n : Nat} (h : dmaOk p a n = true) : a + n ≤ memoryTop := by
  simp only [dmaOk, Bool.and_eq_true, decide_eq_true_eq] at h
  exact h.1

theorem devInit_grounded {s : State} (h : s.Grounded) (hs : s.dev.devState = .initPending) :
    (devInit s).Grounded := by
  unfold devInit
  dsimp only
  split_ifs with h1 h2 h3
  · exact refuse_grounded h _
  · exact withDev_grounded h (initFail_inv h.dev hs)
  · exact refuse_grounded h _
  · exact withDev_grounded h (fetch_inv h.dev hs (by simpa using h1) _ _ (by simpa using h3))

/-- Advancing a device cursor by one keeps it in its ring. -/
theorem txCurDev_inv {d : Dev} (h : d.Inv) (i : Nat) : Dev.Inv { d with txCurDev := (i + 1) % d.tlen } :=
  ⟨h.rlen, h.tlen, h.rxCurDev, Nat.mod_lt _ h.tlen.1, h.rdra, h.tdra, h.pendingStart, h.init, h.strt, h.rxon, h.txon,
    h.tdmd, h.style, h.quiet, h.atStop⟩

theorem rxCurDev_inv {d : Dev} (h : d.Inv) (i : Nat) : Dev.Inv { d with rxCurDev := (i + 1) % d.rlen } :=
  ⟨h.rlen, h.tlen, Nat.mod_lt _ h.rlen.1, h.txCurDev, h.rdra, h.tdra, h.pendingStart, h.init, h.strt, h.rxon, h.txon,
    h.tdmd, h.style, h.quiet, h.atStop⟩

/-- A RUNNING device may set MERR (R360). -/
theorem setMerr_inv {d : Dev} (h : d.Inv) (hs : d.devState = .running) : (setMerr d).Inv :=
  running_flags_inv h hs d.csr0.babl d.csr0.cerr d.csr0.miss true d.csr0.rint d.csr0.tint d.csr0.idon d.csr0.iena

theorem txReturn_grounded {s : State} (h : s.Grounded) (hs : s.dev.devState = .running) (i : Nat) {d : Nat} (st : Half)
    (hd : d + 2 ≤ memoryTop) : (txReturn i d st s).Grounded := by
  have hc := claimDesc_grounded h .tx i st hd
  exact withDev_grounded hc
    (running_flags_inv (txCurDev_inv hc.dev i) (by simpa using hs) _ _ _ _ _ true _ _)

theorem txSend_grounded {s : State} (h : s.Grounded) (hs : s.dev.devState = .running) {f : List Byte}
    (hf : 1 ≤ f.length ∧ f.length ≤ 4095) : (txSend f s).Grounded := by
  refine ⟨h.memory, h.addresses, running_flags_inv h.dev hs .., h.env.arriving, ?_, h.env.delivered⟩
  intro g hg
  rcases List.mem_append.1 hg with hg | hg
  · exact h.env.sent g hg
  · rw [List.mem_singleton.1 hg]; exact hf

theorem deviceLength_range {b : Half} {n : Nat} (h : deviceLength b = some n) : 1 ≤ n ∧ n ≤ 4095 := by
  unfold deviceLength at h
  split_ifs at h with hb
  cases h
  omega

theorem txDescriptor_grounded {s : State} (h : s.Grounded) (hs : s.dev.devState = .running) (o : TxOutcome) (c : Bool)
    (i : Nat) {d : Nat} (hd : d + 2 ≤ memoryTop) : (txDescriptor o c i d s).Grounded := by
  unfold txDescriptor
  dsimp only
  split
  · split_ifs
    · exact txReturn_grounded (withDev_grounded h (setMerr_inv h.dev hs)) hs i _ hd
    · have hlen : 1 ≤ (readBytes s.mem (read32 s.mem (d + 4)).toNat ‹Nat›).length ∧
          (readBytes s.mem (read32 s.mem (d + 4)).toNat ‹Nat›).length ≤ 4095 := by
        rw [readBytes_length]; exact deviceLength_range ‹_›
      have hc : State.Grounded { s with
          dev := { s.dev with csr0 := { s.dev.csr0 with cerr := s.dev.csr0.cerr || c } } } :=
        withDev_grounded h (running_flags_inv h.dev hs ..)
      cases o with
      | ok => exact txReturn_grounded (txSend_grounded hc hs hlen) hs i _ hd
      | uflo => exact txReturn_grounded hc hs i _ hd
      | lcol => exact txReturn_grounded hc hs i _ hd
  · exact txReturn_grounded h hs i _ hd

theorem devTx_grounded {s : State} (h : s.Grounded) (hs : s.dev.devState = .running) (o : TxOutcome) (c : Bool) :
    (devTx o c s).Grounded := by
  have h0 : Dev.Inv { s.dev with csr0 := { s.dev.csr0 with tdmd := false } } :=
    ⟨h.dev.rlen, h.dev.tlen, h.dev.rxCurDev, h.dev.txCurDev, h.dev.rdra, h.dev.tdra, h.dev.pendingStart, h.dev.init,
      h.dev.strt, h.dev.rxon, h.dev.txon, by simp, h.dev.style, h.dev.quiet,
      h.dev.not_atStop (by simp [hs])⟩
  unfold devTx
  dsimp only
  split_ifs with h1 h2
  · exact withDev_grounded h ⟨h0.rlen, h0.tlen, h0.rxCurDev, h0.txCurDev, h0.rdra, h0.tdra, h0.pendingStart, h0.init,
      h0.strt, h0.rxon, by simp, by simp, h0.style, h0.quiet, h0.not_atStop (by simp [hs])⟩
  · exact withDev_grounded h h0
  · have hd := dmaOk_top (by simpa using h1)
    exact txDescriptor_grounded (withDev_grounded h h0) hs o c _ (by omega)

theorem missedFrame_inv {d : Dev} (h : d.Inv) (hs : d.devState = .running) : (missedFrame d).Inv :=
  registers_inv (running_flags_inv h hs d.csr0.babl d.csr0.cerr true d.csr0.merr d.csr0.rint d.csr0.tint d.csr0.idon
    d.csr0.iena) d.dwio d.rap d.csr1 d.csr2 _ _

theorem rxComplete_grounded {s : State} (h : s.Grounded) (hs : s.dev.devState = .running) (i : Nat) {d : Nat} (n : Nat)
    (st : Half) (hd : d + 4 ≤ memoryTop) : (rxComplete i d n st s).Grounded := by
  have h1 : State.Grounded { s with mem := write16 s.mem (d + 2) (neg16 n) } :=
    ⟨write16_keeps_wf _ _ _ h.memory, write16_bounded h.addresses _ (by omega), h.dev, h.env⟩
  have hc := claimDesc_grounded h1 .rx i st (d := d) (by omega)
  exact withDev_grounded hc (running_flags_inv (rxCurDev_inv hc.dev i) (by simpa using hs) _ _ _ _ true _ _ _)

theorem rxFill_grounded {s : State} (h : s.Grounded) (hs : s.dev.devState = .running) (f : Frame) (i : Nat) {d : Nat}
    (hd : d + 4 ≤ memoryTop) : (rxFill f i d s).Grounded := by
  unfold rxFill
  dsimp only
  split_ifs with h1
  · exact withDev_grounded h (setMerr_inv h.dev hs)
  · have hm : State.Grounded
        { s with
          mem := writeBytes s.mem (read32 s.mem (d + 4)).toNat
            (f.bytes.take (min f.bytes.length ((deviceLength (read16 s.mem (d + 2))).getD 0))) } := by
      refine ⟨writeBytes_keeps_wf _ _ _ h.memory, writeBytes_bounded h.addresses ?_, h.dev, h.env⟩
      rcases Nat.eq_zero_or_pos (min f.bytes.length ((deviceLength (read16 s.mem (d + 2))).getD 0)) with h0 | h0
      · left; simp only [h0, List.take_zero]
      · right
        have hk := dmaOk_top (p := s.cfg) (a := (read32 s.mem (d + 4)).toNat)
          (n := min f.bytes.length ((deviceLength (read16 s.mem (d + 2))).getD 0)) (by simpa [h0] using h1)
        rw [List.length_take]
        exact Nat.le_trans (Nat.add_le_add_left (Nat.min_le_left _ _) _) hk
    exact rxComplete_grounded hm hs i _ _ hd

theorem rxFrame_grounded {s : State} (h : s.Grounded) (f : Frame) : (rxFrame f s).Grounded := by
  unfold rxFrame
  dsimp only
  split_ifs with h1 h2 h3 h4
  · exact h
  · exact h
  all_goals have hs : s.dev.devState = .running := by simpa using (by simpa using h1 : _ ∧ _).1
  · have hx : Dev.Inv { s.dev with csr0 := { s.dev.csr0 with merr := true, rxon := false } } :=
      ⟨h.dev.rlen, h.dev.tlen, h.dev.rxCurDev, h.dev.txCurDev, h.dev.rdra, h.dev.tdra, h.dev.pendingStart, h.dev.init,
        h.dev.strt, by simp, h.dev.txon, h.dev.tdmd, h.dev.style, h.dev.quiet,
      h.dev.not_atStop (by simp [hs])⟩
    exact withDev_grounded h hx
  · exact withDev_grounded h (missedFrame_inv h.dev hs)
  · have hd := dmaOk_top (by simpa using h3)
    exact rxFill_grounded h hs f _ (by omega)

theorem devRx_grounded {s : State} (h : s.Grounded) : (devRx s).Grounded := by
  unfold devRx
  split
  · exact h
  · rename_i f fs e
    have ht : State.Grounded { s with env := { s.env with rxIn := fs } } :=
      ⟨h.memory, h.addresses, h.dev,
        ⟨fun g hg => h.env.arriving g (by rw [e]; exact List.mem_cons_of_mem _ hg), h.env.sent, h.env.delivered⟩⟩
    exact rxFrame_grounded ht f

theorem agentStep_grounded {s : State} (h : s.Grounded) (a : AgentStep) : (agentStep a s).Grounded := by
  rcases agentStep_cases a s with e | ⟨_, _, e⟩ <;> rw [e]
  · exact h
  · unfold takeStep
    cases a with
    | init => dsimp only; split_ifs with hs <;> [exact devInit_grounded h hs; exact h]
    | tx o c => dsimp only; split_ifs with hs <;> [exact devTx_grounded h hs.1 o c; exact h]
    | rx => exact devRx_grounded h
    | frame f =>
      dsimp only
      split_ifs with hf
      · exact h
      · refine ⟨h.memory, h.addresses, h.dev, ?_, h.env.sent, h.env.delivered⟩
        intro g hg
        rcases List.mem_append.1 hg with hg | hg
        · exact h.env.arriving g hg
        · rw [List.mem_singleton.1 hg]; exact hf
    | platform p => exact ⟨h.memory, h.addresses, h.dev, h.env.arriving, h.env.sent, h.env.delivered⟩

/-- No step of the device or the environment sets or ends the STOP value of CSR0 (log entry 22). -/
@[simp] theorem agentStep_atStop (a : AgentStep) (s : State) : (agentStep a s).dev.atStop = s.dev.atStop := by
  rcases agentStep_cases a s with e | ⟨_, _, e⟩ <;> rw [e]
  unfold takeStep
  cases a with
  | init =>
    dsimp only [devInit, startIfPending]
    split_ifs <;> simp [refuse, latchInitBlock]
  | tx o c =>
    dsimp only
    split_ifs
    · unfold devTx
      dsimp only
      split_ifs
      · rfl
      · rfl
      · unfold txDescriptor
        dsimp only
        split
        · split_ifs
          · simp [txReturn]
          · cases o <;> simp [txReturn, txOutcomeStep, txSend]
        · simp [txReturn]
    · rfl
  | rx =>
    dsimp only [devRx]
    split
    · rfl
    · dsimp only [rxFrame, rxFill]
      split_ifs <;> simp [rxComplete]
  | frame f => dsimp only; split_ifs <;> rfl
  | platform p => rfl

/-! ### The device alone -/

theorem txReturn_dev_inv {s : State} (h : s.dev.Inv) (hs : s.dev.devState = .running) (i d : Nat) (st : Half) :
    (txReturn i d st s).dev.Inv := by
  have := running_flags_inv (txCurDev_inv h i) hs s.dev.csr0.babl s.dev.csr0.cerr s.dev.csr0.miss s.dev.csr0.merr
    s.dev.csr0.rint true s.dev.csr0.idon s.dev.csr0.iena
  simpa [txReturn] using this

theorem txDescriptor_dev_inv {s : State} (h : s.dev.Inv) (hs : s.dev.devState = .running) (o : TxOutcome) (c : Bool)
    (i d : Nat) : (txDescriptor o c i d s).dev.Inv := by
  have hc : Dev.Inv { s.dev with csr0 := { s.dev.csr0 with cerr := s.dev.csr0.cerr || c } } :=
    running_flags_inv h hs s.dev.csr0.babl _ s.dev.csr0.miss s.dev.csr0.merr s.dev.csr0.rint s.dev.csr0.tint
      s.dev.csr0.idon s.dev.csr0.iena
  have ht (d' : Dev) (hi : d'.Inv) (hr : d'.devState = .running) (e : List (List Byte)) (st : Half) :
      (txReturn i d st { s with dev := d', env := { s.env with txOut := e } }).dev.Inv := txReturn_dev_inv hi hr ..
  unfold txDescriptor
  dsimp only
  split
  · split_ifs
    · exact ht _ (setMerr_inv h hs) hs ..
    · cases o with
      | ok =>
        refine ht _ (running_flags_inv hc hs _ (s.dev.csr0.cerr || c) s.dev.csr0.miss s.dev.csr0.merr s.dev.csr0.rint
          s.dev.csr0.tint s.dev.csr0.idon s.dev.csr0.iena) hs ..
      | uflo => exact ht _ hc hs ..
      | lcol => exact ht _ hc hs ..
  · exact txReturn_dev_inv h hs ..

theorem devTx_dev_inv {s : State} (h : s.dev.Inv) (hs : s.dev.devState = .running) (o : TxOutcome) (c : Bool) :
    (devTx o c s).dev.Inv := by
  have h0 : Dev.Inv { s.dev with csr0 := { s.dev.csr0 with tdmd := false } } :=
    ⟨h.rlen, h.tlen, h.rxCurDev, h.txCurDev, h.rdra, h.tdra, h.pendingStart, h.init, h.strt, h.rxon, h.txon, by simp,
      h.style, h.quiet, h.not_atStop (by simp [hs])⟩
  unfold devTx
  dsimp only
  split_ifs
  · exact ⟨h0.rlen, h0.tlen, h0.rxCurDev, h0.txCurDev, h0.rdra, h0.tdra, h0.pendingStart, h0.init, h0.strt, h0.rxon,
      by simp, by simp, h0.style, h0.quiet, h0.not_atStop (by simp [hs])⟩
  · exact h0
  · exact txDescriptor_dev_inv (s := { s with dev := _ }) h0 hs ..

theorem rxFrame_dev_inv {s : State} (h : s.dev.Inv) (f : Frame) : (rxFrame f s).dev.Inv := by
  unfold rxFrame
  dsimp only
  split_ifs with h1
  · exact h
  · exact h
  all_goals have hs : s.dev.devState = .running := by simpa using (by simpa using h1 : _ ∧ _).1
  · exact ⟨h.rlen, h.tlen, h.rxCurDev, h.txCurDev, h.rdra, h.tdra, h.pendingStart, h.init, h.strt, by simp, h.txon,
      h.tdmd, h.style, h.quiet, h.not_atStop (by simp [hs])⟩
  · exact missedFrame_inv h hs
  · unfold rxFill
    dsimp only
    split_ifs
    · exact setMerr_inv h hs
    · have := running_flags_inv (rxCurDev_inv h s.dev.rxCurDev) hs s.dev.csr0.babl s.dev.csr0.cerr s.dev.csr0.miss
        s.dev.csr0.merr true s.dev.csr0.tint s.dev.csr0.idon s.dev.csr0.iena
      simpa [rxComplete] using this

/-- Every agent step keeps the invariant of the device, whatever memory holds. -/
theorem agentStep_dev_inv {s : State} (h : s.dev.Inv) (a : AgentStep) : (agentStep a s).dev.Inv := by
  rcases agentStep_cases a s with e | ⟨_, _, e⟩ <;> rw [e]
  · exact h
  · unfold takeStep
    cases a with
    | init =>
      dsimp only
      split_ifs with hs
      · unfold devInit
        dsimp only
        split_ifs with h1 h2 h3
        · exact h
        · exact initFail_inv h hs
        · exact h
        · exact fetch_inv h hs (by simpa using h1) _ _ (by simpa using h3)
      · exact h
    | tx o c => dsimp only; split_ifs with hs <;> [exact devTx_dev_inv h hs.1 o c; exact h]
    | rx =>
      dsimp only
      unfold devRx
      split
      · exact h
      · rename_i f fs _
        exact rxFrame_dev_inv (s := { s with env := { s.env with rxIn := fs } }) h f
    | frame f => dsimp only; split_ifs <;> exact h
    | platform p => exact h

theorem agentSteps_dev_inv (as : List AgentStep) {s : State} (h : s.dev.Inv) : (agentSteps as s).dev.Inv := by
  induction as generalizing s with
  | nil => exact h
  | cons a as ih => exact ih (agentStep_dev_inv h a)

end Sys2Proof.Machine
end

