-- ==== Sys2Proof/Laws/Carry.lean ====
section
/-!
SUPPORT. Laws/Carry.lean: properties that survive a controller operation. A property is carried when agent steps and port
requests keep it (`Carried`); each piece an operation is made of then keeps it too, whatever others do in between.
-/

namespace Sys2Proof.Machine

theorem portRow_grounded (i : Instr) {s : State} (h : s.Grounded) : (portRow i s).2.Grounded :=
  ⟨by simpa using h.memory, by simpa using h.addresses, portRow_dev_inv i h.dev, by simpa using h.env⟩

/-- What the device and the environment keep is carried through every operation. -/
theorem carried_grounded : Carried State.Grounded where
  agent a _ h := agentStep_grounded h a
  port i _ h := portRow_grounded i h
  answer _ _ h := ⟨h.memory, h.addresses, h.dev, h.env⟩
  pop _ _ h := ⟨h.memory, h.addresses, h.dev, h.env⟩

section Pieces

variable {P Q : State → Prop} {s : State}

theorem Carried.portRead (h : Carried P) (hs : P s) (z : BitVec 2) (o : BitVec 5) : P (portRead z o s).2 := by
  unfold Machine.portRead
  split
  · exact h.port _ _ hs
  · exact hs

theorem Carried.portWrite (h : Carried P) (hs : P s) (z : BitVec 2) (o : BitVec 5) (v : Word) :
    P (portWrite z o v s) := by
  unfold Machine.portWrite
  split
  · exact h.port _ _ hs
  · exact hs

theorem Carried.ctlRead (h : Carried P) (hR : EndsWell P Q) (hs : P s) (z : BitVec 2) (o : BitVec 5)
    {k : Word → State → Out} (hk : ∀ v, KeepsFrom P Q (k v)) : Keeps Q (ctlRead z o s k) :=
  h.boundary hR (h.portRead hs z o) (hk _)

theorem Carried.ctlWrite (h : Carried P) (hR : EndsWell P Q) (hs : P s) (z : BitVec 2) (o : BitVec 5) (v : Word)
    {k : State → Out} (hk : KeepsFrom P Q k) : Keeps Q (ctlWrite z o v s k) :=
  h.boundary hR (h.portWrite hs z o v) hk

theorem Carried.getCsr (h : Carried P) (hR : EndsWell P Q) (hs : P s) (m : AccessMode) (n : Word)
    {k : Word → State → Out} (hk : ∀ v, KeepsFrom P Q (k v)) : Keeps Q (getCsr m n s k) := by
  cases m
  · exact h.ctlWrite hR hs _ _ _ fun t ht _ => h.ctlRead hR ht _ _ hk
  · exact h.ctlWrite hR hs _ _ _ fun t ht _ => h.ctlRead hR ht _ _ hk

theorem Carried.setCsr (h : Carried P) (hR : EndsWell P Q) (hs : P s) (m : AccessMode) (n v : Word)
    {k : State → Out} (hk : KeepsFrom P Q k) : Keeps Q (setCsr m n v s k) := by
  cases m
  · exact h.ctlWrite hR hs _ _ _ fun t ht _ => h.ctlWrite hR ht _ _ _ hk
  · exact h.ctlWrite hR hs _ _ _ fun t ht _ => h.ctlWrite hR ht _ _ _ hk

theorem Carried.setBcr (h : Carried P) (hR : EndsWell P Q) (hs : P s) (m : AccessMode) (n v : Word)
    {k : State → Out} (hk : KeepsFrom P Q k) : Keeps Q (setBcr m n v s k) := by
  cases m
  · exact h.ctlWrite hR hs _ _ _ fun t ht _ => h.ctlWrite hR ht _ _ _ hk
  · exact h.ctlWrite hR hs _ _ _ fun t ht _ => h.ctlWrite hR ht _ _ _ hk

theorem Carried.resetDevice (h : Carried P) (hR : EndsWell P Q) (hs : P s) (m : AccessMode)
    {k : State → Out} (hk : KeepsFrom P Q k) : Keeps Q (resetDevice m s k) := by
  cases m
  · exact h.ctlRead hR hs _ _ fun _ => hk
  · exact h.ctlRead hR hs _ _ fun _ => hk

theorem Carried.probeRead (h : Carried P) (hR : EndsWell P Q) (hs : P s) (z : BitVec 2) (o : BitVec 5)
    {k : Word → State → Out} (hk : ∀ v, KeepsFrom P Q (k v)) : Keeps Q (probeRead z o s k) := by
  unfold Machine.probeRead
  split_ifs
  · exact h.ctlRead hR hs z o hk
  · exact h.boundary hR hs (hk _)

theorem Carried.probeWrite (h : Carried P) (hR : EndsWell P Q) (hs : P s) (z : BitVec 2) (o : BitVec 5) (v : Word)
    {k : State → Out} (hk : KeepsFrom P Q k) : Keeps Q (probeWrite z o v s k) := by
  unfold Machine.probeWrite
  split_ifs
  · exact h.ctlWrite hR hs z o v hk
  · exact h.boundary hR hs hk

theorem Carried.probeWidth (h : Carried P) (hR : EndsWell P Q) (hs : P s)
    {k : Option AccessMode → State → Out} (hk : ∀ m, KeepsFrom P Q (k m)) : Keeps Q (probeWidth s k) := by
  unfold Machine.probeWidth
  refine h.probeRead hR hs _ _ fun _ t ht _ => h.probeWrite hR ht _ _ _ fun t ht _ =>
    h.probeRead hR ht _ _ fun v t ht hr => ?_
  split_ifs
  · exact hk _ t ht hr
  · refine h.probeRead hR ht _ _ fun _ t ht _ => h.probeWrite hR ht _ _ _ fun t ht _ =>
      h.probeRead hR ht _ _ fun v t ht hr => ?_
    split_ifs
    · exact hk _ t ht hr
    · exact hk _ t ht hr

theorem Carried.readStation (h : Carried P) (hR : EndsWell P Q) (offs : List (BitVec 5)) (acc : List Byte) (hs : P s)
    (hr : s.refusal = none) {k : List Byte → State → Out} (hk : ∀ bs, KeepsFrom P Q (k bs)) :
    Keeps Q (readStation offs acc s k) := by
  induction offs generalizing acc s with
  | nil => exact hk acc s hs hr
  | cons o offs ih => exact h.ctlRead hR hs _ _ fun v t ht hr => ih _ ht hr

theorem Carried.forSlots (h : Carried P) (hR : EndsWell P Q) {f : Nat → State → State} (first n : Nat)
    (hf : ∀ i t, first ≤ i → i < first + n → P t → P (f i t)) (hs : P s) (hr : s.refusal = none) {k : State → Out}
    (hk : KeepsFrom P Q k) : Keeps Q (forSlots f first n s k) := by
  induction n generalizing first s with
  | zero => exact hk s hs hr
  | succ n ih =>
    refine h.boundary hR (hf first s (le_refl _) (by omega) hs) fun t ht hr => ?_
    exact ih (first + 1) (fun i t h1 h2 => hf i t (by omega) (by omega)) ht hr

end Pieces

/-! ### Slots and stores -/

theorem ctlStore_grounded {s : State} (h : s.Grounded) (ring : Ring) (i d a : Nat) {bs : List Byte}
    (hb : a + bs.length ≤ memoryTop) : (ctlStore ring i d a bs s).Grounded := by
  rcases ctlStore_cases ring i d a bs s with ⟨_, _, e⟩ | ⟨_, e⟩ <;> rw [e]
  · exact raiseFault_grounded h _
  · exact ⟨writeBytes_keeps_wf _ _ _ h.memory, writeBytes_bounded h.addresses (Or.inr hb), h.dev, h.env⟩

theorem releaseDesc_grounded {s : State} (h : s.Grounded) (ring : Ring) (i : Nat) {d : Nat} (st : Half)
    (hd : d + 2 ≤ memoryTop) : (releaseDesc ring i d st s).Grounded := by
  rcases releaseDesc_cases ring i d st s with ⟨_, _, e⟩ | ⟨_, e⟩ <;> rw [e]
  · exact raiseFault_grounded h _
  · exact putStatus_grounded h st hd

end Sys2Proof.Machine
end

