-- ==== Sys2Proof/Laws/Flags.lean ====
section
/-!
SUPPORT. Laws/Flags.lean: the bits of the status words, one by one (10_state.md R24, R28; 41_csr_file.md R200).
-/

namespace Sys2Proof.Machine

/-- A flag placed at bit `j` is that bit and no other. -/
@[simp] theorem getLsbD_flagAt (b : Bool) {j : Nat} (hj : j < 16) (k : Nat) :
    (flagAt b j).getLsbD k = (b && k == j) := by
  unfold flagAt
  rw [BitVec.getLsbD_shiftLeft, BitVec.getLsbD_setWidth]
  rcases Nat.lt_trichotomy k j with h | rfl | h
  · have hk : k ≠ j := by omega
    cases b <;> simp [h, hk]
  · cases b <;> simp [hj]
  · have h0 : k - j ≠ 0 := by omega
    have hk : k ≠ j := by omega
    cases b <;> simp [h0, hk]

/-- CSR0 read is `csr0Word` (R200). -/
theorem csrRead_zero (d : Dev) : csrRead d 0 = csr0Word d := rfl

/-- A STOPPED device with every stored bit of CSR0 clear and INTR 0 reads CSR0 as 0x0004 (R24). -/
theorem csr0Word_eq_stop {d : Dev} (hs : d.devState = .stopped) (hc : d.csr0 = Csr0.clear) (hi : intrBit d = false) :
    csr0Word d = 0x0004 := by
  simp only [csr0Word, errBit, stopBit, hs, hc, hi, Csr0.clear]
  decide

/-- `stop()` leaves CSR0 at 0x0004, whatever CSR4 holds (R210, R452). -/
@[simp] theorem csr0Word_devStop (d : Dev) : csr0Word (devStop d) = 0x0004 :=
  csr0Word_eq_stop rfl rfl (Bool.and_false _)

/-- So does `S_RESET()` (R451). -/
@[simp] theorem csr0Word_devSReset (d : Dev) : csr0Word (devSReset d) = 0x0004 :=
  csr0Word_eq_stop rfl rfl rfl

/-- Without a STOP value in CSR0, CSR0.INTR is the formula of R25. -/
theorem intrBit_of_not_atStop {d : Dev} (h : d.atStop = false) : intrBit d = intrSources d := by
  simp [intrBit, h]

/-- The formula of R25 with IENA gives the interrupt line (R38), in the states that `stop()` leaves too: they have IENA
clear. -/
theorem irq_eq_sources {d : Dev} (h : d.atStop = true → d.csr0 = Csr0.clear) :
    irq d = (intrSources d && d.csr0.iena) := by
  cases ha : d.atStop with
  | false => rw [irq, intrBit_of_not_atStop ha]
  | true => simp [irq, h ha, Csr0.clear]

/-- The bits of CSR0 as it is read. -/
theorem getLsbD_csr0Word (d : Dev) (k : Nat) :
    (csr0Word d).getLsbD k =
      (errBit d && k == 15 || d.csr0.babl && k == 14 || d.csr0.cerr && k == 13 || d.csr0.miss && k == 12 ||
        d.csr0.merr && k == 11 || d.csr0.rint && k == 10 || d.csr0.tint && k == 9 || d.csr0.idon && k == 8 ||
        intrBit d && k == 7 || d.csr0.iena && k == 6 || d.csr0.rxon && k == 5 || d.csr0.txon && k == 4 ||
        d.csr0.tdmd && k == 3 || stopBit d && k == 2 || d.csr0.strt && k == 1 || d.csr0.init && k == 0) := by
  unfold csr0Word
  simp only [BitVec.getLsbD_or]
  repeat rw [getLsbD_flagAt _ (by decide)]

/-- The bits of CSR4 as it is read. -/
theorem getLsbD_csr4Word (d : Dev) (k : Nat) :
    (csr4Word d).getLsbD k = (d.csr4.mfco && k == 9 || d.csr4.mfcom && k == 8) := by
  unfold csr4Word
  rw [BitVec.getLsbD_or, getLsbD_flagAt _ (by decide), getLsbD_flagAt _ (by decide)]

end Sys2Proof.Machine
end

