-- ==== Sys2Proof/Laws/Layout.lean ====
section
/-!
SUPPORT. Laws/Layout.lean: where slots and buffers lie in the region (20_memory.md R92, R93): inside it, and apart from each
other.
-/

namespace Sys2Proof.Machine

theorem rxLen_pos (p : Params) : 0 < rxLen p := Nat.pow_pos (by decide)

theorem txLen_pos (p : Params) : 0 < txLen p := Nat.pow_pos (by decide)

/-- The region ends where the TX buffers end (R92). -/
theorem regionSize_eq (p : Params) : regionSize p = txBufOff p + txLen p * p.bufferSize := by
  simp only [regionSize, txBufOff, rxBufOff, txRingOff, rxRingOff, descSize, initBlockSize, Nat.add_mul]
  omega

theorem mul_slot_le {i n : Nat} (h : i < n) (c : Nat) : c * i + c ≤ n * c := by
  have := Nat.mul_le_mul_left c (Nat.succ_le_of_lt h)
  rw [Nat.mul_succ] at this
  rwa [Nat.mul_comm n c]

/-- RX descriptor `i` ends before the TX ring. -/
theorem rxDesc_end {p : Params} {i : Nat} (h : i < rxLen p) (base : Nat) :
    rxDescAddr base i + 16 ≤ base + txRingOff p := by
  have := mul_slot_le h 16
  simp only [rxDescAddr, txRingOff, descSize] at *
  omega

/-- TX descriptor `i` ends before the RX buffers. -/
theorem txDesc_end {p : Params} {i : Nat} (h : i < txLen p) (base : Nat) :
    txDescAddr p base i + 16 ≤ base + rxBufOff p := by
  have := mul_slot_le h 16
  simp only [txDescAddr, rxBufOff, descSize] at *
  omega

/-- RX buffer `i` ends before the TX buffers. -/
theorem rxBuf_end {p : Params} {i : Nat} (h : i < rxLen p) (base : Nat) :
    rxBufAddr p base i + p.bufferSize ≤ base + txBufOff p := by
  have := mul_slot_le h p.bufferSize
  simp only [rxBufAddr, txBufOff] at *
  omega

/-- TX buffer `i` ends inside the region. -/
theorem txBuf_end {p : Params} {i : Nat} (h : i < txLen p) (base : Nat) :
    txBufAddr p base i + p.bufferSize ≤ base + regionSize p := by
  have := mul_slot_le h p.bufferSize
  rw [regionSize_eq]
  simp only [txBufAddr] at *
  omega

theorem txRing_le_rxBuf (p : Params) : txRingOff p ≤ rxBufOff p := Nat.le_add_right _ _

theorem rxBuf_le_txBuf (p : Params) : rxBufOff p ≤ txBufOff p := Nat.le_add_right _ _

theorem txBuf_le_region (p : Params) : txBufOff p ≤ regionSize p := by
  rw [regionSize_eq]; exact Nat.le_add_right _ _

/-- Two RX descriptors are apart. -/
theorem rxDesc_apart {i j : Nat} (h : i ≠ j) (base : Nat) :
    rxDescAddr base i + 16 ≤ rxDescAddr base j ∨ rxDescAddr base j + 16 ≤ rxDescAddr base i := by
  simp only [rxDescAddr, descSize]
  omega

/-- Two TX descriptors are apart. -/
theorem txDesc_apart {p : Params} {i j : Nat} (h : i ≠ j) (base : Nat) :
    txDescAddr p base i + 16 ≤ txDescAddr p base j ∨ txDescAddr p base j + 16 ≤ txDescAddr p base i := by
  simp only [txDescAddr, descSize]
  omega

/-- Two RX buffers are apart. -/
theorem rxBuf_apart {p : Params} {i j : Nat} (h : i ≠ j) (base : Nat) :
    rxBufAddr p base i + p.bufferSize ≤ rxBufAddr p base j ∨ rxBufAddr p base j + p.bufferSize ≤ rxBufAddr p base i := by
  simp only [rxBufAddr]
  rcases Nat.lt_or_gt_of_ne h with h | h
  · left
    have := Nat.mul_le_mul_left p.bufferSize (Nat.succ_le_of_lt h)
    rw [Nat.mul_succ] at this
    omega
  · right
    have := Nat.mul_le_mul_left p.bufferSize (Nat.succ_le_of_lt h)
    rw [Nat.mul_succ] at this
    omega

/-- The descriptors and the buffers start after the initialization block. -/
theorem rxDesc_start (base i : Nat) : base + 32 ≤ rxDescAddr base i := by
  simp only [rxDescAddr, rxRingOff, initBlockSize]
  omega

theorem txDesc_start (p : Params) (base i : Nat) : base + txRingOff p ≤ txDescAddr p base i := by
  simp only [txDescAddr]
  omega

theorem rxBuf_start (p : Params) (base i : Nat) : base + rxBufOff p ≤ rxBufAddr p base i := by
  simp only [rxBufAddr]
  omega

theorem txBuf_start (p : Params) (base i : Nat) : base + txBufOff p ≤ txBufAddr p base i := by
  simp only [txBufAddr]
  omega

end Sys2Proof.Machine
end

