-- ==== Sys2Proof/Laws/Rings.lean ====
section
/-!
SUPPORT. Laws/Rings.lean: what the slot operations keep, and what they leave in memory when the ownership rule lets them
(42_descriptor_ring.md R255, R256, R258, R259).
-/

namespace Sys2Proof.Machine

/-! ### The slot operations keep memory canonical and bounded -/

theorem rxArm_grounded {s : State} (h : s.Grounded) {base i : Nat} (hd : rxDescAddr base i + 16 ≤ memoryTop) :
    (rxArm base i s).Grounded := by
  unfold rxArm
  refine releaseDesc_grounded (ctlStore_grounded (ctlStore_grounded (ctlStore_grounded (ctlStore_grounded h _ _ _ _ ?_)
    _ _ _ _ ?_) _ _ _ _ ?_) _ _ _ _ ?_) _ _ _ ?_ <;>
    (try simp only [wordBytes_length, halfBytes_length]) <;> omega

theorem txInit_grounded {s : State} (h : s.Grounded) {base i : Nat}
    (hd : txDescAddr s.cfg base i + 16 ≤ memoryTop) : (txInit base i s).Grounded := by
  unfold txInit
  refine ctlStore_grounded (ctlStore_grounded (ctlStore_grounded (ctlStore_grounded (ctlStore_grounded h _ _ _ _ ?_)
    _ _ _ _ ?_) _ _ _ _ ?_) _ _ _ _ ?_) _ _ _ _ ?_ <;>
    (try simp only [wordBytes_length, halfBytes_length]) <;> omega

/-- RX descriptor `i` lies inside physical memory. -/
theorem rxDesc_inside {p : Params} {base i : Nat} (hi : i < rxLen p) (hb : base + regionSize p ≤ memoryTop) :
    rxDescAddr base i + 16 ≤ memoryTop := by
  have h1 := rxDesc_end hi base
  have h2 := txRing_le_rxBuf p
  have h3 := rxBuf_le_txBuf p
  have h4 := txBuf_le_region p
  omega

/-- TX descriptor `i` lies inside physical memory. -/
theorem txDesc_inside {p : Params} {base i : Nat} (hi : i < txLen p) (hb : base + regionSize p ≤ memoryTop) :
    txDescAddr p base i + 16 ≤ memoryTop := by
  have h1 := txDesc_end hi base
  have h3 := rxBuf_le_txBuf p
  have h4 := txBuf_le_region p
  omega

/-! ### A descriptor written field by field, status last -/

/-- The five stores of a slot set-up or a post: `bufferAddress`, `link`, the reserved word, `byteCount`, then `status`
(R98). Irreducible, so that only its lemmas below look inside. -/
@[irreducible] def putDesc (d : Nat) (ba : Word) (bc st : Half) (m : Memory) : Memory :=
  writeBytes (writeBytes (writeBytes (writeBytes (writeBytes m (d + 4) (wordBytes ba)) (d + 8) (wordBytes 0)) (d + 12)
    (wordBytes 0)) (d + 2) (halfBytes bc)) d (halfBytes st)

section PutDesc

variable (d : Nat) (ba : Word) (bc st : Half) (m : Memory)

theorem putDesc_outside {y : Nat} (h : y < d ∨ d + 16 ≤ y) : readByte (putDesc d ba bc st m) y = readByte m y := by
  unfold putDesc
  rw [readByte_writeBytes_outside, readByte_writeBytes_outside, readByte_writeBytes_outside,
    readByte_writeBytes_outside, readByte_writeBytes_outside] <;>
    simp only [wordBytes_length, halfBytes_length] <;> omega

theorem putDesc_status : read16 (putDesc d ba bc st m) d = st := by
  unfold putDesc
  exact read16_writeBytes_half _ _ _

theorem putDesc_byteCount : read16 (putDesc d ba bc st m) (d + 2) = bc := by
  unfold putDesc
  rw [read16_writeBytes_outside _ _ _ _ (by simp only [halfBytes_length]; omega)]
  exact read16_writeBytes_half _ _ _

theorem putDesc_bufferAddress : read32 (putDesc d ba bc st m) (d + 4) = ba := by
  unfold putDesc
  rw [read32_writeBytes_outside _ _ _ _ (by simp only [halfBytes_length]; omega),
    read32_writeBytes_outside _ _ _ _ (by simp only [halfBytes_length]; omega),
    read32_writeBytes_outside _ _ _ _ (by simp only [wordBytes_length]; omega),
    read32_writeBytes_outside _ _ _ _ (by simp only [wordBytes_length]; omega)]
  exact read32_writeBytes_word _ _ _

theorem putDesc_link : read32 (putDesc d ba bc st m) (d + 8) = 0 := by
  unfold putDesc
  rw [read32_writeBytes_outside _ _ _ _ (by simp only [halfBytes_length]; omega),
    read32_writeBytes_outside _ _ _ _ (by simp only [halfBytes_length]; omega),
    read32_writeBytes_outside _ _ _ _ (by simp only [wordBytes_length]; omega)]
  exact read32_writeBytes_word _ _ _

theorem putDesc_reserved : read32 (putDesc d ba bc st m) (d + 12) = 0 := by
  unfold putDesc
  rw [read32_writeBytes_outside _ _ _ _ (by simp only [halfBytes_length]; omega),
    read32_writeBytes_outside _ _ _ _ (by simp only [halfBytes_length]; omega)]
  exact read32_writeBytes_word _ _ _

end PutDesc

/-- A store that leaves the status word of `d` alone leaves its owner. -/
theorem deviceOwns_writeBytes_outside (m : Memory) (d a : Nat) (bs : List Byte)
    (h : d + 2 ≤ a ∨ a + bs.length ≤ d) : deviceOwns (writeBytes m a bs) d = deviceOwns m d := by
  unfold deviceOwns
  rw [read16_writeBytes_outside _ _ _ _ h]

/-- The controller may store into the slot whose descriptor is at `d`: the device is STOPPED or software owns it (R97, R99,
R253). -/
def MayStore (s : State) (d : Nat) : Prop := s.dev.devState = .stopped ∨ deviceOwns s.mem d = false

theorem MayStore.after {s : State} {d a : Nat} {bs : List Byte} (h : MayStore s d)
    (ha : d + 2 ≤ a ∨ a + bs.length ≤ d) : MayStore { s with mem := writeBytes s.mem a bs } d :=
  h.imp id fun h => by rw [deviceOwns_writeBytes_outside _ _ _ _ ha]; exact h

/-- `rxArm(i)` where the ownership rule lets it: the descriptor is written, and nothing else (R255). -/
theorem rxArm_allowed {s : State} {base i : Nat} (h : MayStore s (rxDescAddr base i)) :
    rxArm base i s =
      { s with
        mem := putDesc (rxDescAddr base i) (BitVec.ofNat 32 (rxBufAddr s.cfg base i)) (neg16 s.cfg.bufferSize) 0x8000
          s.mem } := by
  have h1 := h.after (a := rxDescAddr base i + 4) (bs := wordBytes (BitVec.ofNat 32 (rxBufAddr s.cfg base i)))
    (by simp only [wordBytes_length]; omega)
  have h2 := h1.after (a := rxDescAddr base i + 8) (bs := wordBytes 0) (by simp only [wordBytes_length]; omega)
  have h3 := h2.after (a := rxDescAddr base i + 12) (bs := wordBytes 0) (by simp only [wordBytes_length]; omega)
  have h4 := h3.after (a := rxDescAddr base i + 2) (bs := halfBytes (neg16 s.cfg.bufferSize))
    (by simp only [halfBytes_length]; omega)
  unfold rxArm
  dsimp only
  rw [ctlStore_allowed h, ctlStore_allowed h1, ctlStore_allowed h2]
  dsimp only
  rw [ctlStore_allowed h3, releaseDesc_allowed h4]
  unfold putDesc
  rfl

/-- `txInit(i)` where the ownership rule lets it (R259). The status store comes after `byteCount`, so the slot's owner does
not change before it. -/
theorem txInit_allowed {s : State} {base i : Nat} (h : MayStore s (txDescAddr s.cfg base i)) :
    txInit base i s =
      { s with
        mem := putDesc (txDescAddr s.cfg base i) (BitVec.ofNat 32 (txBufAddr s.cfg base i)) 0 0 s.mem } := by
  have h1 := h.after (a := txDescAddr s.cfg base i + 4) (bs := wordBytes (BitVec.ofNat 32 (txBufAddr s.cfg base i)))
    (by simp only [wordBytes_length]; omega)
  have h2 := h1.after (a := txDescAddr s.cfg base i + 8) (bs := wordBytes 0) (by simp only [wordBytes_length]; omega)
  have h3 := h2.after (a := txDescAddr s.cfg base i + 12) (bs := wordBytes 0) (by simp only [wordBytes_length]; omega)
  have h4 := h3.after (a := txDescAddr s.cfg base i + 2) (bs := halfBytes 0) (by simp only [halfBytes_length]; omega)
  unfold txInit
  dsimp only
  rw [ctlStore_allowed h, ctlStore_allowed h1, ctlStore_allowed h2, ctlStore_allowed h3, ctlStore_allowed h4]
  unfold putDesc
  rfl

/-- What a set-up RX slot holds. -/
theorem putDesc_rxArmed (p : Params) (base i : Nat) (m : Memory) :
    RxArmed p base i
      (putDesc (rxDescAddr base i) (BitVec.ofNat 32 (rxBufAddr p base i)) (neg16 p.bufferSize) 0x8000 m) :=
  ⟨putDesc_status .., putDesc_byteCount .., putDesc_bufferAddress .., putDesc_link .., putDesc_reserved ..⟩

/-- What a set-up TX slot holds. -/
theorem putDesc_txEmpty (p : Params) (base i : Nat) (m : Memory) :
    TxEmpty p base i (putDesc (txDescAddr p base i) (BitVec.ofNat 32 (txBufAddr p base i)) 0 0 m) :=
  ⟨putDesc_status .., putDesc_byteCount .., putDesc_bufferAddress .., putDesc_link .., putDesc_reserved ..⟩

/-! ### Post and take -/

theorem txPost_full {s : State} {base : Nat} (h : deviceOwns s.mem (txDescAddr s.cfg base s.ctl.txCur) = true)
    (payload : List Byte) :
    txPost base payload s =
      (false, { s with
        ctl := { s.ctl with counters := { s.ctl.counters with txFull := s.ctl.counters.txFull + 1 } } }) := by
  unfold txPost
  dsimp only
  rw [if_pos h]

/-- `txPost(p)` on a software-owned slot: the payload, then the descriptor (R258). -/
theorem txPost_allowed {s : State} {base : Nat} (h : deviceOwns s.mem (txDescAddr s.cfg base s.ctl.txCur) = false)
    (payload : List Byte)
    (hb : txDescAddr s.cfg base s.ctl.txCur + 16 ≤ txBufAddr s.cfg base s.ctl.txCur) :
    txPost base payload s =
      (true, { s with
        mem := putDesc (txDescAddr s.cfg base s.ctl.txCur)
          (BitVec.ofNat 32 (txBufAddr s.cfg base s.ctl.txCur)) (neg16 payload.length) 0x8300
          (writeBytes s.mem (txBufAddr s.cfg base s.ctl.txCur) payload)
        ctl := { s.ctl with
          counters := { s.ctl.counters with txPosted := s.ctl.counters.txPosted + 1 }
          txCur := (s.ctl.txCur + 1) % txLen s.cfg } }) := by
  have h0 : MayStore s (txDescAddr s.cfg base s.ctl.txCur) := Or.inr h
  have h1 := h0.after (a := txBufAddr s.cfg base s.ctl.txCur) (bs := payload) (by omega)
  have h2 := h1.after (a := txDescAddr s.cfg base s.ctl.txCur + 4)
    (bs := wordBytes (BitVec.ofNat 32 (txBufAddr s.cfg base s.ctl.txCur))) (by simp only [wordBytes_length]; omega)
  have h3 := h2.after (a := txDescAddr s.cfg base s.ctl.txCur + 8) (bs := wordBytes 0)
    (by simp only [wordBytes_length]; omega)
  have h4 := h3.after (a := txDescAddr s.cfg base s.ctl.txCur + 12) (bs := wordBytes 0)
    (by simp only [wordBytes_length]; omega)
  have h5 := h4.after (a := txDescAddr s.cfg base s.ctl.txCur + 2) (bs := halfBytes (neg16 payload.length))
    (by simp only [halfBytes_length]; omega)
  unfold txPost
  dsimp only
  rw [if_neg (by rw [h]; simp), ctlStore_allowed h0, ctlStore_allowed h1, ctlStore_allowed h2, ctlStore_allowed h3,
    ctlStore_allowed h4, releaseDesc_allowed h5]
  unfold putDesc
  dsimp only [putStatus, write16]

theorem takeNext_empty {s : State} {base : Nat} (h : deviceOwns s.mem (rxDescAddr base s.ctl.rxCur) = true) :
    takeNext base s = (.empty, s) := by
  unfold takeNext
  dsimp only
  exact if_pos h

/-- What `RECEIVE` makes of the slot at `rxCur` (R256). -/
def taken (base : Nat) (s : State) : RxTake × Counters :=
  takeSlot s.cfg s.mem (rxBufAddr s.cfg base s.ctl.rxCur) (read16 s.mem (rxDescAddr base s.ctl.rxCur))
    (read16 s.mem (rxDescAddr base s.ctl.rxCur + 2)) s.ctl.counters

/-- `RECEIVE` on a software-owned slot: its result and counters, the slot re-armed, the cursor advanced (R256). -/
theorem takeNext_owned {s : State} {base : Nat} (h : deviceOwns s.mem (rxDescAddr base s.ctl.rxCur) = false) :
    takeNext base s =
      ((taken base s).1, { s with
        mem := putDesc (rxDescAddr base s.ctl.rxCur) (BitVec.ofNat 32 (rxBufAddr s.cfg base s.ctl.rxCur))
          (neg16 s.cfg.bufferSize) 0x8000 s.mem
        ctl := { s.ctl with counters := (taken base s).2, rxCur := (s.ctl.rxCur + 1) % rxLen s.cfg } }) := by
  have e : takeNext base s =
      ((taken base s).1,
        let t := rxArm base s.ctl.rxCur { s with ctl := { s.ctl with counters := (taken base s).2 } }
        { t with ctl := { t.ctl with rxCur := (s.ctl.rxCur + 1) % rxLen t.cfg } }) := by
    unfold takeNext
    exact if_neg (by show ¬ deviceOwns _ _ = true; rw [h]; simp)
  rw [e, rxArm_allowed (s := { s with ctl := { s.ctl with counters := (taken base s).2 } }) (Or.inr h)]

/-- `RECEIVE` takes nothing, or takes the slot at `rxCur`. -/
theorem takeNext_cases (base : Nat) (s : State) :
    (deviceOwns s.mem (rxDescAddr base s.ctl.rxCur) = true ∧ takeNext base s = (.empty, s)) ∨
    (deviceOwns s.mem (rxDescAddr base s.ctl.rxCur) = false ∧
      takeNext base s =
        ((taken base s).1, { s with
          mem := putDesc (rxDescAddr base s.ctl.rxCur) (BitVec.ofNat 32 (rxBufAddr s.cfg base s.ctl.rxCur))
            (neg16 s.cfg.bufferSize) 0x8000 s.mem
          ctl := { s.ctl with counters := (taken base s).2, rxCur := (s.ctl.rxCur + 1) % rxLen s.cfg } })) := by
  cases h : deviceOwns s.mem (rxDescAddr base s.ctl.rxCur) with
  | true => exact Or.inl ⟨rfl, takeNext_empty h⟩
  | false => exact Or.inr ⟨rfl, takeNext_owned h⟩

/-- A taken slot is a packet its buffer can hold, or is dropped (R256). -/
theorem takeSlot_cases (p : Params) (m : Memory) (buf : Nat) (st bc : Half) (c : Counters) :
    (∃ n : Nat, (takeSlot p m buf st bc c).1 = .packet (readBytes m buf n) ∧ 1 ≤ n ∧ n ≤ p.bufferSize ∧
      dec16 bc = n) ∨ (takeSlot p m buf st bc c).1 = .dropped := by
  unfold takeSlot
  split_ifs with h1 h2 h3
  · exact Or.inr rfl
  · refine Or.inl ⟨(dec16 bc).toNat, rfl, ?_, ?_, ?_⟩ <;> omega
  · exact Or.inr rfl
  · exact Or.inr rfl

end Sys2Proof.Machine
end

