-- ==== Sys2Proof/Laws/SetUp.lean ====
section
/-!
SUPPORT. Laws/SetUp.lean: a loop over slots run undisturbed, and what the set-up of both rings leaves in memory
(42_descriptor_ring.md R255, R259; 43_buffer_manager.md R290).
-/

namespace Sys2Proof.Machine

/-! ### Slots are unchanged where their bytes are -/

theorem read32_congr {m m' : Memory} {a : Nat} (h : ∀ x, a ≤ x → x < a + 4 → readByte m' x = readByte m x) :
    read32 m' a = read32 m a := by
  unfold read32
  rw [read16_congr (h _ (by omega) (by omega)) (h _ (by omega) (by omega)),
    read16_congr (h _ (by omega) (by omega)) (h _ (by omega) (by omega))]

theorem RxArmed.congr {p : Params} {base i : Nat} {m m' : Memory} (h : RxArmed p base i m)
    (hs : ∀ x, rxDescAddr base i ≤ x → x < rxDescAddr base i + 16 → readByte m' x = readByte m x) :
    RxArmed p base i m' where
  status := (read16_congr (hs _ (by omega) (by omega)) (hs _ (by omega) (by omega))).trans h.status
  byteCount := (read16_congr (hs _ (by omega) (by omega)) (hs _ (by omega) (by omega))).trans h.byteCount
  bufferAddress := (read32_congr fun x h1 h2 => hs x (by omega) (by omega)).trans h.bufferAddress
  link := (read32_congr fun x h1 h2 => hs x (by omega) (by omega)).trans h.link
  reserved := (read32_congr fun x h1 h2 => hs x (by omega) (by omega)).trans h.reserved

theorem TxEmpty.congr {p : Params} {base i : Nat} {m m' : Memory} (h : TxEmpty p base i m)
    (hs : ∀ x, txDescAddr p base i ≤ x → x < txDescAddr p base i + 16 → readByte m' x = readByte m x) :
    TxEmpty p base i m' where
  status := (read16_congr (hs _ (by omega) (by omega)) (hs _ (by omega) (by omega))).trans h.status
  byteCount := (read16_congr (hs _ (by omega) (by omega)) (hs _ (by omega) (by omega))).trans h.byteCount
  bufferAddress := (read32_congr fun x h1 h2 => hs x (by omega) (by omega)).trans h.bufferAddress
  link := (read32_congr fun x h1 h2 => hs x (by omega) (by omega)).trans h.link
  reserved := (read32_congr fun x h1 h2 => hs x (by omega) (by omega)).trans h.reserved

/-! ### Loops over slots -/

/-- The slots `first` to `first + n - 1` in order, with nothing in between. -/
def slotsInOrder (f : Nat → State → State) (first : Nat) : Nat → State → State
  | 0, s => s
  | n + 1, s => slotsInOrder f (first + 1) n (f first s)

theorem forSlots_alone {f : Nat → State → State}
    (hf : ∀ i s, (f i s).interleave = s.interleave ∧ (f i s).refusal = s.refusal) (first n : Nat) {s : State}
    (ha : s.Alone) (k : State → Out) : forSlots f first n s k = k (slotsInOrder f first n s) := by
  induction n generalizing first s with
  | zero => rfl
  | succ n ih =>
    have h := hf first s
    unfold forSlots
    rw [boundary_alone (h.1.trans ha.undisturbed) (h.2.trans ha.live),
      ih _ ⟨h.2.trans ha.live, h.1.trans ha.undisturbed⟩]
    rfl

/-- Arming RX slots of a STOPPED device: every one is armed, and no byte outside their descriptors changes. -/
theorem slotsInOrder_rxArm {base : Nat} (n first : Nat) {s : State} (hst : s.dev.devState = .stopped) :
    let t := slotsInOrder (rxArm base) first n s
    t = { s with mem := t.mem } ∧ (∀ i, first ≤ i → i < first + n → RxArmed s.cfg base i t.mem) ∧
    ∀ x, (∀ i, first ≤ i → i < first + n → x < rxDescAddr base i ∨ rxDescAddr base i + 16 ≤ x) →
      readByte t.mem x = readByte s.mem x := by
  induction n generalizing first s with
  | zero => exact ⟨rfl, fun i h1 h2 => by omega, fun x _ => rfl⟩
  | succ n ih =>
    intro t
    have e := rxArm_allowed (s := s) (base := base) (i := first) (Or.inl hst)
    obtain ⟨g1, g2, g3⟩ := ih (first := first + 1) (s := rxArm base first s) (by rw [e]; exact hst)
    have ht : slotsInOrder (rxArm base) (first + 1) n (rxArm base first s) = t := rfl
    rw [ht] at g1 g2 g3
    refine ⟨by rw [g1, e], fun i h1 h2 => ?_, fun x hx => ?_⟩
    · rcases Nat.eq_or_lt_of_le h1 with rfl | h1
      · refine RxArmed.congr (m := (rxArm base first s).mem) (by rw [e]; exact putDesc_rxArmed ..) fun x hx1 hx2 =>
          g3 x fun j hj1 hj2 => ?_
        have := rxDesc_apart (i := first) (j := j) (by omega) base
        omega
      · have h := g2 i (by omega) (by omega)
        rwa [e] at h
    · rw [g3 x fun i h1 h2 => hx i (by omega) (by omega), e]
      exact putDesc_outside _ _ _ _ _ (hx first (by omega) (by omega))

/-- Emptying TX slots of a STOPPED device: every one is empty, and no byte outside their descriptors changes. -/
theorem slotsInOrder_txInit {base : Nat} (n first : Nat) {s : State} (hst : s.dev.devState = .stopped) :
    let t := slotsInOrder (txInit base) first n s
    t = { s with mem := t.mem } ∧ (∀ i, first ≤ i → i < first + n → TxEmpty s.cfg base i t.mem) ∧
    ∀ x, (∀ i, first ≤ i → i < first + n → x < txDescAddr s.cfg base i ∨ txDescAddr s.cfg base i + 16 ≤ x) →
      readByte t.mem x = readByte s.mem x := by
  induction n generalizing first s with
  | zero => exact ⟨rfl, fun i h1 h2 => by omega, fun x _ => rfl⟩
  | succ n ih =>
    intro t
    have e := txInit_allowed (s := s) (base := base) (i := first) (Or.inl hst)
    obtain ⟨g1, g2, g3⟩ := ih (first := first + 1) (s := txInit base first s) (by rw [e]; exact hst)
    have ht : slotsInOrder (txInit base) (first + 1) n (txInit base first s) = t := rfl
    rw [ht] at g1 g2 g3
    have hc : (txInit base first s).cfg = s.cfg := by rw [e]
    rw [hc] at g2 g3
    refine ⟨by rw [g1, e], fun i h1 h2 => ?_, fun x hx => ?_⟩
    · rcases Nat.eq_or_lt_of_le h1 with rfl | h1
      · refine TxEmpty.congr (m := (txInit base first s).mem) (by rw [e]; exact putDesc_txEmpty ..) fun x hx1 hx2 =>
          g3 x fun j hj1 hj2 => ?_
        have := txDesc_apart (p := s.cfg) (i := first) (j := j) (by omega) base
        omega
      · exact g2 i (by omega) (by omega)
    · rw [g3 x fun i h1 h2 => hx i (by omega) (by omega), e]
      exact putDesc_outside _ _ _ _ _ (hx first (by omega) (by omega))

/-- Both rings set up on a STOPPED device: the cursors are 0, the slots are as R255 and R259 leave them, and no byte
outside the two rings changes. -/
theorem setUpRings_alone {base : Nat} {s : State} (ha : s.Alone) (hst : s.dev.devState = .stopped)
    (k : State → Out) :
    ∃ m, setUpRings base s k = k { s with mem := m, ctl := { s.ctl with rxCur := 0, txCur := 0 } } ∧
      (∀ i < rxLen s.cfg, RxArmed s.cfg base i m) ∧ (∀ i < txLen s.cfg, TxEmpty s.cfg base i m) ∧
      SameOutside (base + rxRingOff) (16 * (rxLen s.cfg + txLen s.cfg)) s.mem m := by
  obtain ⟨a1, a2, a3⟩ := slotsInOrder_rxArm (base := base) (rxLen s.cfg) 0 hst
  generalize ht1 : slotsInOrder (rxArm base) 0 (rxLen s.cfg) s = t1 at *
  have hc : t1.cfg = s.cfg := by rw [a1]
  obtain ⟨b1, b2, b3⟩ := slotsInOrder_txInit (base := base) (txLen s.cfg) 0 (s := t1) (by rw [a1]; exact hst)
  generalize ht2 : slotsInOrder (txInit base) 0 (txLen s.cfg) t1 = t2 at *
  rw [hc] at b2 b3
  refine ⟨t2.mem, ?_, fun i hi => ?_, fun i hi => b2 i (Nat.zero_le _) (by omega), fun x hx => ?_⟩
  · unfold setUpRings
    rw [forSlots_alone (by simp) _ _ ha, ht1, hc,
      forSlots_alone (by simp) _ _ ⟨by rw [a1]; exact ha.live, by rw [a1]; exact ha.undisturbed⟩, ht2, b1, a1]
  · refine (a2 i (Nat.zero_le _) (by omega)).congr fun x h1 h2 => b3 x fun j _ _ => ?_
    have h3 := rxDesc_end hi base
    have h4 := txDesc_start s.cfg base j
    omega
  · have hR : rxRingOff = 32 := rfl
    have hT : txRingOff s.cfg = 32 + rxLen s.cfg * 16 := rfl
    have hB : rxBufOff s.cfg = txRingOff s.cfg + txLen s.cfg * 16 := rfl
    rw [b3 x fun i _ hi => ?_, a3 x fun i _ hi => ?_]
    · have h1 := rxDesc_end (p := s.cfg) (i := i) (by omega) base
      have h2 := rxDesc_start base i
      omega
    · have h1 := txDesc_end (p := s.cfg) (i := i) (by omega) base
      have h2 := txDesc_start s.cfg base i
      omega

/-! ### The initialization block -/

theorem initBlockBytes_length (p : Params) (base : Nat) (mac : BitVec 48) :
    (initBlockBytes p base mac).length = 32 := rfl

/-- `n` bytes read where `bs` was written, from its byte `k` on. -/
theorem readBytes_written (m : Memory) (base : Nat) (bs : List Byte) (k n : Nat) (h : k + n ≤ bs.length) :
    readBytes (writeBytes m base bs) (base + k) n = (bs.drop k).take n := by
  induction n generalizing k with
  | zero => rw [List.take_zero]; rfl
  | succ n ih =>
    have hk : k < bs.length := by omega
    have e : bs.drop k = bs[k] :: bs.drop (k + 1) := List.drop_eq_getElem_cons hk
    rw [e, List.take_succ_cons, ← ih (k + 1) (by omega), ← readByte_writeBytes_inside bs m base k hk]
    rfl

/-- A value of two bytes where `bs` was written. -/
theorem read16_written (m : Memory) (base : Nat) (bs : List Byte) (k : Nat) (b0 b1 : Byte)
    (h : (bs.drop k).take 2 = [b0, b1]) : read16 (writeBytes m base bs) (base + k) = b1 ++ b0 := by
  have hl : k + 2 ≤ bs.length := by
    have := congrArg List.length h
    simp only [List.length_take, List.length_drop, List.length_cons, List.length_nil] at this
    omega
  have e := (readBytes_written m base bs k 2 hl).trans h
  injection e with e0 e1
  injection e1 with e1
  unfold read16
  rw [e0, e1]

/-! ### Reaching the controller's resources -/

theorem withAccessMode_fits {s : State} {m : AccessMode} (h : s.Fits m) (k : AccessMode → Out) :
    withAccessMode s k = k m := by
  unfold withAccessMode
  rw [h.mode]

theorem withRegion_holds {s : State} {base : Nat} (h : s.Holds base) (k : Nat → Out) : withRegion s k = k base := by
  unfold withRegion
  rw [h.region]
  exact if_pos h.inside

/-! ### The decoder mode is no CSR's and no BCR's -/

@[simp] theorem csr0Write_dwio (d : Dev) (v : Half) : (csr0Write d v).dwio = d.dwio := by
  unfold csr0Write
  dsimp only
  split_ifs
  · rfl
  · rcases commandTdmd_cases (commandInitStrt
      { d with csr0 := { acknowledge d.csr0 v with iena := v.getLsbD 6 }, atStop := false } v) v with ⟨_, _, _, e⟩ | e
    all_goals
      rw [e]
      rcases commandInitStrt_cases
        { d with csr0 := { acknowledge d.csr0 v with iena := v.getLsbD 6 }, atStop := false } v with
        ⟨_, _, e⟩ | ⟨_, _, e⟩ | ⟨_, _, e⟩ | e <;> (rw [e]; try rfl)

@[simp] theorem csrWrite_dwio (d : Dev) (n : Byte) (v : Half) : (csrWrite d n v).dwio = d.dwio := by
  unfold csrWrite csr4Write
  split_ifs <;> first | rfl | exact csr0Write_dwio d v

@[simp] theorem bcrWrite_dwio (d : Dev) (n : Byte) (v : Half) : (bcrWrite d n v).dwio = d.dwio := by
  unfold bcrWrite
  split_ifs <;> rfl

end Sys2Proof.Machine
end

