-- ==== Sys2Proof/Laws/Driver.lean ====
section
/-!
SUPPORT. Laws/Driver.lean: what the pieces of the controller's operations do when no other agent steps inside them
(44_driver_core.md R314, R315, R321), and the byte-count encoding (20_memory.md R88).
-/

namespace Sys2Proof.Machine

/-! ### Byte counts and register data -/

/-- A length encoded as a byte count and read back (R88). -/
theorem dec16_neg16 {n : Nat} (h : n < 2 ^ 15) : dec16 (neg16 n) = n := by
  unfold dec16 neg16
  rw [BitVec.toInt_eq_toNat_bmod, BitVec.toNat_ofNat, Int.bmod_def]
  norm_num
  omega

/-- The lower half of the initialization block's address, as CSR1 takes it (R314). -/
theorem registerData_initBlock_low (base : Nat) :
    registerData ((initBlockAddr base).extractLsb' 0 16 |>.setWidth 32) = BitVec.ofNat 16 base := by
  rw [registerData_setWidth]
  apply BitVec.eq_of_toNat_eq
  simp [initBlockAddr]

/-- The upper half of the initialization block's address, as CSR2 takes it (R314). -/
theorem registerData_initBlock_high (base : Nat) :
    registerData ((initBlockAddr base).extractLsb' 16 16 |>.setWidth 32) = BitVec.ofNat 16 (base / 65536) := by
  rw [registerData_setWidth]
  apply BitVec.eq_of_toNat_eq
  simp [initBlockAddr, Nat.shiftRight_eq_div_pow]
  omega

/-- A bit of a status word, as a CALL hands it back zero-extended. -/
theorem getLsbD_statusWord (v : Half) (k : Nat) (h : k < 16) : (v.setWidth 32 : Word).getLsbD k = v.getLsbD k := by
  simp [BitVec.getLsbD_setWidth]
  omega

/-! ### Register writes of the operations -/

/-- CSR4 written back as read: MFCO acknowledged, MFCOM kept (R212). -/
theorem csrWrite_csr4Word (d : Dev) :
    csrWrite d 4 (csr4Word d) = { d with csr4 := ⟨false, d.csr4.mfcom⟩, atStop := false } := by
  have h9 : (csr4Word d).getLsbD 9 = d.csr4.mfco := by rw [getLsbD_csr4Word]; simp
  have h8 : (csr4Word d).getLsbD 8 = d.csr4.mfcom := by rw [getLsbD_csr4Word]; simp
  show csr4Write d _ = _
  unfold csr4Write
  rw [h9, h8]
  simp

/-- The write of STOP (R210). -/
theorem csrWrite_stop (d : Dev) : csrWrite d 0 4 = devStop d := by
  simp [csrWrite, csr0Write, devStop]

/-! ### Service -/

theorem serviceIdon_skip {m : AccessMode} {v : Word} {s : State} {k : State → Out}
    (h : ¬ (v.getLsbD 8 = true ∧ s.ctl.lc = .initializing)) : serviceIdon m v s k = k s := if_neg h

theorem serviceIdon_start {m : AccessMode} {v : Word} {s : State} {k : State → Out}
    (h : v.getLsbD 8 = true ∧ s.ctl.lc = .initializing) :
    serviceIdon m v s k = setCsr m 0 0x0042 s fun s => k (setLc .running s) := if_pos h

theorem serviceRint_skip {v : Word} {s : State} {k : State → Out} (h : ¬ v.getLsbD 10 = true) :
    serviceRint v s k = k s := if_neg h

theorem serviceRint_drain {v : Word} {s : State} {k : State → Out} (h : v.getLsbD 10 = true) :
    serviceRint v s k = drainRx s k := if_pos h

/-! ### Disable -/

/-- `DISABLE()` in a state that asks for it: STOP and DISABLED (R321). -/
theorem disableSteps_alone {s : State} {m : AccessMode} (ha : s.Alone) (hf : s.Fits m)
    (h : disables s.ctl.lc = true) (k : State → Out) :
    disableSteps s k =
      k { s with dev := devStop { s.dev with rap := 0 }, ctl := { s.ctl with lc := .disabled } } := by
  have h0 : rapData (registerData 0) = 0 := rfl
  have h4 : registerData 4 = 4 := rfl
  unfold disableSteps
  rw [if_pos h, withAccessMode_fits hf, setCsr_alone hf.decoder ha.undisturbed ha.live]
  simp only [writeRdp, writeRap, setLc, h0, h4, csrWrite_stop]

end Sys2Proof.Machine
end

