-- ==== Sys2Proof/Laws/Freed.lean ====
section
/-!
SUPPORT. Laws/Freed.lean: a step of the device writes only bytes it reaches (`devReach`), so it leaves the freed region as it
is (20_memory.md R94, 70_reset_and_hazards.md R463).
-/

namespace Sys2Proof.Machine

/-- A byte is outside a list of ranges. -/
def OutsideAll (rs : List (Nat × Nat)) (x : Nat) : Prop := ∀ r ∈ rs, x < r.1 ∨ r.1 + r.2 ≤ x

theorem claimDesc_outside {s : State} {ring : Ring} {i d : Nat} {st : Half} {x : Nat} (h : x < d ∨ d + 2 ≤ x) :
    readByte (claimDesc ring i d st s).mem x = readByte s.mem x := by
  rcases claimDesc_cases ring i d st s with ⟨_, e⟩ | ⟨_, e⟩ <;> rw [e]
  · exact readByte_write16_outside _ _ _ _ h
  · rfl

theorem txReturn_outside {s : State} {i d : Nat} {st : Half} {x : Nat} (h : x < d ∨ d + 2 ≤ x) :
    readByte (txReturn i d st s).mem x = readByte s.mem x := claimDesc_outside h

theorem txDescriptor_outside {s : State} {o : TxOutcome} {c : Bool} {i d x : Nat} (h : x < d ∨ d + 2 ≤ x) :
    readByte (txDescriptor o c i d s).mem x = readByte s.mem x := by
  unfold txDescriptor
  dsimp only
  split
  · split_ifs
    · exact txReturn_outside h
    · rw [txReturn_outside h]; cases o <;> rfl
  · exact txReturn_outside h

/-- `dev.tx` writes the descriptor it polls only. -/
theorem devTx_outside {s : State} {o : TxOutcome} {c : Bool} {x : Nat} (hs : s.dev.devState = .running)
    (ht : s.dev.csr0.txon = true) (h : OutsideAll (txReach s) x) :
    readByte (devTx o c s).mem x = readByte s.mem x := by
  unfold devTx
  dsimp only
  split_ifs with h1 h2
  · rfl
  · rfl
  · have hd : dmaOk s.cfg (s.dev.tdra.toNat + 16 * s.dev.txCurDev) 16 = true := by simpa using h1
    have := h (s.dev.tdra.toNat + 16 * s.dev.txCurDev, 16) (by simp [txReach, hs, ht, hd])
    exact txDescriptor_outside (by dsimp only at this; omega)

/-- `dev.rx` into a descriptor it owns writes that descriptor and the bytes of the buffer it fills. -/
theorem rxFill_outside {s : State} {f : Frame} {i d x : Nat} (hd : x < d ∨ d + 4 ≤ x)
    (hb : OutsideAll (bufferReach s.cfg (read32 s.mem (d + 4)).toNat
      (min f.bytes.length ((deviceLength (read16 s.mem (d + 2))).getD 0))) x) :
    readByte (rxFill f i d s).mem x = readByte s.mem x := by
  unfold rxFill
  dsimp only
  split_ifs with h1
  · rfl
  · show readByte (claimDesc _ _ _ _ _).mem x = _
    rw [claimDesc_outside (by omega)]
    dsimp only
    rw [readByte_write16_outside _ _ _ _ (by omega)]
    apply readByte_writeBytes_outside
    generalize min f.bytes.length ((deviceLength (read16 s.mem (d + 2))).getD 0) = n at *
    rw [List.length_take]
    rcases Nat.eq_zero_or_pos n with h0 | h0
    · omega
    · have hk : dmaOk s.cfg (read32 s.mem (d + 4)).toNat n = true := by simpa [h0] using h1
      have := hb ((read32 s.mem (d + 4)).toNat, n) (by simp [bufferReach, h0, hk])
      dsimp only at this
      omega

/-- `dev.rx` writes only what it reaches. -/
theorem devRx_outside {s : State} {x : Nat} (h : OutsideAll (rxReach s) x) :
    readByte (devRx s).mem x = readByte s.mem x := by
  unfold devRx
  unfold rxReach at h
  split
  · rfl
  · rename_i f fs e
    rw [e] at h
    unfold rxFrame
    dsimp only at h ⊢
    split_ifs with h1 h2 h3 h4
    · rfl
    · rfl
    · rfl
    · rfl
    · have hr : s.dev.devState = .running ∧ s.dev.csr0.rxon = true := by simpa using h1
      have ha : acceptFrame s.dev f = true := by simpa using h2
      have hd : dmaOk s.cfg (s.dev.rdra.toNat + 16 * s.dev.rxCurDev) 16 = true := by simpa using h3
      have ho : deviceOwns s.mem (s.dev.rdra.toNat + 16 * s.dev.rxCurDev) = true := by simpa using h4
      rw [if_pos ⟨hr.1, hr.2, ha, hd⟩, if_pos ho] at h
      have h0 := h _ List.mem_cons_self
      dsimp only at h0
      exact rxFill_outside (s := { s with env := { s.env with rxIn := fs } }) (by omega)
        fun r hm => h r (List.mem_cons_of_mem _ hm)

theorem devInit_mem (s : State) : (devInit s).mem = s.mem := by
  unfold devInit
  dsimp only
  split_ifs <;> rfl

/-- A step changes no byte outside those it reaches. -/
theorem takeStep_outside {a : AgentStep} {s : State} {x : Nat} (h : OutsideAll (devReach a s) x) :
    readByte (takeStep a s).mem x = readByte s.mem x := by
  cases a with
  | init => dsimp only [takeStep]; split_ifs <;> simp only [devInit_mem]
  | tx o c => dsimp only [takeStep]; split_ifs with ht <;> [exact devTx_outside ht.1 ht.2 h; rfl]
  | rx => exact devRx_outside h
  | frame f => dsimp only [takeStep]; split_ifs <;> rfl
  | platform p => rfl

/-- A step that is not barred reaches no byte of the freed region. -/
theorem outsideAll_of_not_barred {a : AgentStep} {s : State} {g : Region} {x : Nat} (hf : s.ctl.freed = some g)
    (hb : barred a s = false) (h1 : g.base ≤ x) (h2 : x < g.base + g.size) : OutsideAll (devReach a s) x := by
  intro r hr
  have hm : meetsFreed s r = false := by
    by_contra hc
    have : barred a s = true := List.any_eq_true.2 ⟨r, hr, by simpa using hc⟩
    rw [hb] at this
    cases this
  simp only [meetsFreed, hf, Bool.and_eq_false_iff, decide_eq_false_iff_not] at hm
  omega

/-! ### When a step is not barred -/

theorem bufferReach_any {s : State} {ba n : Nat} (h : n > 0 → dmaOk s.cfg ba n = true → meetsFreed s (ba, n) = false) :
    (bufferReach s.cfg ba n).any (meetsFreed s) = false := by
  unfold bufferReach
  split_ifs with hc
  · simp only [Bool.and_eq_true, decide_eq_true_eq] at hc
    simp [h hc.1 hc.2]
  · rfl

/-- `dev.init` is not barred when its block, if it reads it, is apart from the freed region. -/
theorem barred_init_false {s : State}
    (h : s.dev.swstyle = 2 → dmaOk s.cfg (iadr s.dev) 28 = true → meetsFreed s (iadr s.dev, 28) = false) :
    barred .init s = false := by
  unfold barred devReach initReach
  dsimp only
  split_ifs with hc
  · simp [h hc.2.1 hc.2.2]
  · rfl

/-- `dev.tx` is not barred when its descriptor, and the buffer it reads if it reads one, are apart from the freed region. -/
theorem barred_tx_false {s : State} (o : TxOutcome) (c : Bool) {d : Nat}
    (hd : s.dev.tdra.toNat + 16 * s.dev.txCurDev = d)
    (h : dmaOk s.cfg d 16 = true → meetsFreed s (d, 16) = false)
    (hb : dmaOk s.cfg d 16 = true → deviceOwns s.mem d = true → ∀ n, wholeFrame (read16 s.mem d) = true →
      deviceLength (read16 s.mem (d + 2)) = some n → dmaOk s.cfg (read32 s.mem (d + 4)).toNat n = true →
      meetsFreed s ((read32 s.mem (d + 4)).toNat, n) = false) :
    barred (.tx o c) s = false := by
  subst hd
  unfold barred devReach txReach
  dsimp only
  split_ifs with hc ho
  · rw [List.any_cons, h hc.2.2, Bool.false_or]
    split
    · rename_i n hw hn
      exact bufferReach_any fun _ hk => hb hc.2.2 ho n hw hn hk
    · rfl
  · rw [List.any_cons, h hc.2.2]; rfl
  · rfl

/-- `dev.rx` is not barred when the descriptor at the cursor, and the buffer bytes it writes if it writes any, are apart
from the freed region. -/
theorem barred_rx_false {s : State} {f : Frame} {fs : List Frame} {d : Nat} (e : s.env.rxIn = f :: fs)
    (hd : s.dev.rdra.toNat + 16 * s.dev.rxCurDev = d)
    (h : s.dev.devState = .running → s.dev.csr0.rxon = true → acceptFrame s.dev f = true → dmaOk s.cfg d 16 = true →
      meetsFreed s (d, 16) = false)
    (hb : s.dev.devState = .running → s.dev.csr0.rxon = true → acceptFrame s.dev f = true → dmaOk s.cfg d 16 = true →
      deviceOwns s.mem d = true → ∀ n, n = min f.bytes.length ((deviceLength (read16 s.mem (d + 2))).getD 0) → n > 0 →
      dmaOk s.cfg (read32 s.mem (d + 4)).toNat n = true → meetsFreed s ((read32 s.mem (d + 4)).toNat, n) = false) :
    barred .rx s = false := by
  subst hd
  unfold barred devReach rxReach
  rw [e]
  dsimp only
  split_ifs with hc ho
  · rw [List.any_cons, h hc.1 hc.2.1 hc.2.2.1 hc.2.2.2, Bool.false_or]
    exact bufferReach_any (hb hc.1 hc.2.1 hc.2.2.1 hc.2.2.2 ho _ rfl)
  · rw [List.any_cons, h hc.1 hc.2.1 hc.2.2.1 hc.2.2.2]; rfl
  · rfl

/-! ### The freed region -/

/-- No step of the device or the environment changes a byte of the freed region. -/
theorem agentStep_freed {a : AgentStep} {s : State} {g : Region} {x : Nat} (hf : s.ctl.freed = some g)
    (h1 : g.base ≤ x) (h2 : x < g.base + g.size) : readByte (agentStep a s).mem x = readByte s.mem x := by
  rcases agentStep_cases a s with e | ⟨_, hb, e⟩ <;> rw [e]
  exact takeStep_outside (outsideAll_of_not_barred hf hb h1 h2)

/-- The freed region and a byte of it are carried through every operation that leaves the controller's memory alone. -/
theorem carried_freed (c : Ctl) (g : Region) (hf : c.freed = some g) (x : Nat) (h1 : g.base ≤ x)
    (h2 : x < g.base + g.size) (b : Byte) : Carried fun s => s.ctl = c ∧ readByte s.mem x = b where
  agent a s h := ⟨by simpa using h.1, by rw [agentStep_freed (by rw [h.1]; exact hf) h1 h2]; exact h.2⟩
  port i s h := ⟨by simpa using h.1, by simpa using h.2⟩
  answer _ _ h := h
  pop _ _ h := h

end Sys2Proof.Machine
end

