-- ==== Sys2Proof/Laws/PerInstr.lean ====
section
/-!
SUPPORT. Laws/PerInstr.lean: what holds of each instruction as syntax: its request is of its row's class, and the request
word matches its row of the opcode table (30_encoding.md R122, R125).
-/

namespace Sys2Proof.Laws

open Sys2Proof

/-- Class, mask and match of each row of spec/opcode_table.json. -/
def RowMatch.row : Instr → Format × Byte × Byte
  | .apromRb _ => (.pio, 0xF0, 0x00)
  | .apromRw _ => (.pio, 0xF1, 0x20)
  | .apromRd _ => (.pio, 0xF3, 0x40)
  | .rdpRw => (.pio, 0xFF, 0x30)
  | .dwioEnter _ => (.pio, 0xFF, 0xD0)
  | .rdpWw _ => (.pio, 0xFF, 0xB0)
  | .rapRw => (.pio, 0xFF, 0x32)
  | .rapWw _ => (.pio, 0xFF, 0xB2)
  | .resetRw => (.pio, 0xFF, 0x34)
  | .bdpRw => (.pio, 0xFF, 0x36)
  | .bdpWw _ => (.pio, 0xFF, 0xB6)
  | .rdpRd => (.pio, 0xFF, 0x50)
  | .rdpWd _ => (.pio, 0xFF, 0xD0)
  | .rapRd => (.pio, 0xFF, 0x54)
  | .rapWd _ => (.pio, 0xFF, 0xD4)
  | .resetRd => (.pio, 0xFF, 0x58)
  | .bdpRd => (.pio, 0xFF, 0x5C)
  | .bdpWd _ => (.pio, 0xFF, 0xDC)
  | .attach => (.op, 0xFF, 0x10)
  | .initializeOp => (.op, 0xFF, 0x20)
  | .isr => (.op, 0xFF, 0x30)
  | .transmit _ => (.op, 0xFF, 0x40)
  | .receive => (.op, 0xFF, 0x50)
  | .disable => (.op, 0xFF, 0x60)
  | .release => (.op, 0xFF, 0x70)

/-- The word of a request, its first byte. -/
def RowMatch.word (r : Request) : Byte := r.bytes.headD 0

/-- A well-formed instruction's request has its row's class, and its word matches its row. -/
def RowMatch.Statement (i : Instr) : Prop :=
  i.wf = true →
    (encode i).fmt = (RowMatch.row i).1 ∧
      RowMatch.word (encode i) &&& (RowMatch.row i).2.1 = (RowMatch.row i).2.2

theorem RowMatch.apromRb (off : BitVec 4) : RowMatch.Statement (.apromRb off) := fun _ =>
  ⟨rfl, (by decide : ∀ off : BitVec 4, (0x00 ||| off.setWidth 8 : Byte) &&& 0xF0 = 0x00) off⟩

theorem RowMatch.apromRw (off : BitVec 4) : RowMatch.Statement (.apromRw off) := fun h =>
  ⟨rfl, (by decide : ∀ off : BitVec 4, (!off.getLsbD 0) = true → (0x20 ||| off.setWidth 8 : Byte) &&& 0xF1 = 0x20) off h⟩

theorem RowMatch.apromRd (off : BitVec 4) : RowMatch.Statement (.apromRd off) := fun h =>
  ⟨rfl, (by decide : ∀ off : BitVec 4, (!off.getLsbD 0 && !off.getLsbD 1) = true →
    (0x40 ||| off.setWidth 8 : Byte) &&& 0xF3 = 0x40) off h⟩

theorem RowMatch.rdpRw : RowMatch.Statement .rdpRw := fun _ => ⟨rfl, rfl⟩
theorem RowMatch.dwioEnter (data : Word) : RowMatch.Statement (.dwioEnter data) := fun _ =>
  ⟨rfl, (by decide : (0xD0 : Byte) &&& 0xFF = 0xD0)⟩
theorem RowMatch.rdpWw (data : Half) : RowMatch.Statement (.rdpWw data) := fun _ =>
  ⟨rfl, (by decide : (0xB0 : Byte) &&& 0xFF = 0xB0)⟩
theorem RowMatch.rapRw : RowMatch.Statement .rapRw := fun _ => ⟨rfl, rfl⟩
theorem RowMatch.rapWw (data : Half) : RowMatch.Statement (.rapWw data) := fun _ =>
  ⟨rfl, (by decide : (0xB2 : Byte) &&& 0xFF = 0xB2)⟩
theorem RowMatch.resetRw : RowMatch.Statement .resetRw := fun _ => ⟨rfl, rfl⟩
theorem RowMatch.bdpRw : RowMatch.Statement .bdpRw := fun _ => ⟨rfl, rfl⟩
theorem RowMatch.bdpWw (data : Half) : RowMatch.Statement (.bdpWw data) := fun _ =>
  ⟨rfl, (by decide : (0xB6 : Byte) &&& 0xFF = 0xB6)⟩
theorem RowMatch.rdpRd : RowMatch.Statement .rdpRd := fun _ => ⟨rfl, rfl⟩
theorem RowMatch.rdpWd (data : Word) : RowMatch.Statement (.rdpWd data) := fun _ =>
  ⟨rfl, (by decide : (0xD0 : Byte) &&& 0xFF = 0xD0)⟩
theorem RowMatch.rapRd : RowMatch.Statement .rapRd := fun _ => ⟨rfl, rfl⟩
theorem RowMatch.rapWd (data : Word) : RowMatch.Statement (.rapWd data) := fun _ =>
  ⟨rfl, (by decide : (0xD4 : Byte) &&& 0xFF = 0xD4)⟩
theorem RowMatch.resetRd : RowMatch.Statement .resetRd := fun _ => ⟨rfl, rfl⟩
theorem RowMatch.bdpRd : RowMatch.Statement .bdpRd := fun _ => ⟨rfl, rfl⟩
theorem RowMatch.bdpWd (data : Word) : RowMatch.Statement (.bdpWd data) := fun _ =>
  ⟨rfl, (by decide : (0xDC : Byte) &&& 0xFF = 0xDC)⟩
theorem RowMatch.attach : RowMatch.Statement .attach := fun _ => ⟨rfl, rfl⟩
theorem RowMatch.initializeOp : RowMatch.Statement .initializeOp := fun _ => ⟨rfl, rfl⟩
theorem RowMatch.isr : RowMatch.Statement .isr := fun _ => ⟨rfl, rfl⟩
theorem RowMatch.transmit (payload : List Byte) : RowMatch.Statement (.transmit payload) := fun _ =>
  ⟨rfl, (by decide : (0x40 : Byte) &&& 0xFF = 0x40)⟩
theorem RowMatch.receive : RowMatch.Statement .receive := fun _ => ⟨rfl, rfl⟩
theorem RowMatch.disable : RowMatch.Statement .disable := fun _ => ⟨rfl, rfl⟩
theorem RowMatch.release : RowMatch.Statement .release := fun _ => ⟨rfl, rfl⟩

end Sys2Proof.Laws
end

