-- ==== Sys2Proof/Tests/Slice0.lean ====
section
/-!
SUPPORT. Tests/Slice0.lean: the smoke test of WellFormed, a decoded word for every row written out from the encoding tables,
at most two small tests for each instruction (expected values from 95_test_vectors.md), and for every statement that
has hypotheses a witness that meets them.
-/

open Sys2Proof Sys2Proof.Machine

namespace Sys2Proof.Tests

/-! ### Well-formedness -/

theorem test_wf_refuses_odd_word_read : (Instr.apromRw 3).wf = false := by decide
theorem test_wf_refuses_misaligned_dword_read : (Instr.apromRd 2).wf = false := by decide
theorem test_wf_refuses_odd_dword_read : (Instr.apromRd 1).wf = false := by decide
theorem test_wf_admits_aligned_reads : ((Instr.apromRw 14).wf && (Instr.apromRd 12).wf) = true := by decide

/-! ### Decoding: `W<<7 | SZ<<5 | OFF` (R121), `OPC<<4` (R122), as 95_test_vectors.md section 3.1 lists them -/

theorem test_decode_aprom_rb : decodeRequest false ⟨.pio, [0x03]⟩ = .ok (.apromRb 3) := by decide
theorem test_decode_aprom_rw : decodeRequest true ⟨.pio, [0x22]⟩ = .ok (.apromRw 2) := by decide
theorem test_decode_aprom_rd : decodeRequest false ⟨.pio, [0x4C]⟩ = .ok (.apromRd 12) := by decide
theorem test_decode_rdp_rw : decodeRequest false ⟨.pio, [0x30]⟩ = .ok .rdpRw := by decide
theorem test_decode_dwio_enter :
    decodeRequest false ⟨.pio, [0xD0, 0x44, 0x33, 0x22, 0x11]⟩ = .ok (.dwioEnter 0x11223344) := by decide
theorem test_decode_rdp_ww : decodeRequest false ⟨.pio, [0xB0, 0x41, 0x80]⟩ = .ok (.rdpWw 0x8041) := by decide
theorem test_decode_rap_rw : decodeRequest false ⟨.pio, [0x32]⟩ = .ok .rapRw := by decide
theorem test_decode_rap_ww : decodeRequest false ⟨.pio, [0xB2, 0x58, 0x00]⟩ = .ok (.rapWw 0x0058) := by decide
theorem test_decode_reset_rw : decodeRequest false ⟨.pio, [0x34]⟩ = .ok .resetRw := by decide
theorem test_decode_bdp_rw : decodeRequest false ⟨.pio, [0x36]⟩ = .ok .bdpRw := by decide
theorem test_decode_bdp_ww : decodeRequest false ⟨.pio, [0xB6, 0x02, 0x01]⟩ = .ok (.bdpWw 0x0102) := by decide
theorem test_decode_rdp_rd : decodeRequest true ⟨.pio, [0x50]⟩ = .ok .rdpRd := by decide
theorem test_decode_rdp_wd :
    decodeRequest true ⟨.pio, [0xD0, 0x41, 0, 0, 0]⟩ = .ok (.rdpWd 0x41) := by decide
theorem test_decode_rap_rd : decodeRequest true ⟨.pio, [0x54]⟩ = .ok .rapRd := by decide
theorem test_decode_rap_wd :
    decodeRequest true ⟨.pio, [0xD4, 0x14, 0x01, 0, 0]⟩ = .ok (.rapWd 0x114) := by decide
theorem test_decode_reset_rd : decodeRequest true ⟨.pio, [0x58]⟩ = .ok .resetRd := by decide
theorem test_decode_bdp_rd : decodeRequest true ⟨.pio, [0x5C]⟩ = .ok .bdpRd := by decide
theorem test_decode_bdp_wd :
    decodeRequest true ⟨.pio, [0xDC, 0x02, 0, 0, 0]⟩ = .ok (.bdpWd 2) := by decide
theorem test_decode_attach : decodeRequest false ⟨.op, [0x10]⟩ = .ok .attach := by decide
theorem test_decode_initialize : decodeRequest false ⟨.op, [0x20]⟩ = .ok .initializeOp := by decide
theorem test_decode_isr : decodeRequest true ⟨.op, [0x30]⟩ = .ok .isr := by decide
theorem test_decode_transmit : decodeRequest false ⟨.op, [0x40, 0xAA]⟩ = .ok (.transmit [0xAA]) := by decide
theorem test_decode_receive : decodeRequest true ⟨.op, [0x50]⟩ = .ok .receive := by decide
theorem test_decode_disable : decodeRequest false ⟨.op, [0x60]⟩ = .ok .disable := by decide
theorem test_decode_release : decodeRequest false ⟨.op, [0x70]⟩ = .ok .release := by decide

/-- Undecoded requests of section 3.1: odd and misaligned APROM reads, an APROM write, a RESET write, a byte access. -/
theorem test_undecoded_words : ∀ w ∈ [(0x23 : Byte), 0x42, 0x80, 0xB4, 0x10, 0x70],
    ∀ d : Bool, decodePio d w [] = .error (.undecoded w) := by decide

/-- Word requests of one mode do not decode in the other (section 3.1). -/
theorem test_undecoded_in_the_other_mode :
    (∀ w ∈ [(0x30 : Byte), 0xB0, 0xB2, 0x34, 0x36], decodePio true w [] = .error (.undecoded w)) ∧
    ∀ w ∈ [(0x50 : Byte), 0xD4, 0x58, 0xDC], decodePio false w [] = .error (.undecoded w) := by decide

theorem test_reserved_ops : ∀ w ∈ [(0x00 : Byte), 0x80, 0xF0, 0x41],
    decodeRequest false ⟨.op, [w]⟩ = .error .reservedOp := by decide

/-! ### States -/

/-- A state after an outcome, where there is one. -/
def after (o : Out) : Option State :=
  match o with
  | .next s => some s
  | .fault _ => none
  | .refused _ => none

/-- A property of the state after an outcome; false where there is none. -/
def holdsAfter (o : Out) (p : State → Bool) : Bool :=
  match after o with
  | some s => p s
  | none => false

/-- The initialization block of section 2, byte by byte. -/
def blockBytes : List Byte :=
  [0x00, 0x00, 0x20, 0x20, 0x00, 0x11, 0x22, 0x33, 0x44, 0x55, 0x00, 0x00, 0x00, 0x00, 0x00, 0x00,
    0x00, 0x00, 0x00, 0x00, 0x20, 0x00, 0x10, 0x00, 0x60, 0x00, 0x10, 0x00, 0x00, 0x00, 0x00, 0x00]

/-- One RX descriptor of section 2 with its buffer address bytes. -/
def rxBytes (b1 b0 : Byte) : List Byte := [0x00, 0x80, 0x00, 0xFA, b0, b1, 0x10, 0, 0, 0, 0, 0, 0, 0, 0, 0]

/-- One TX descriptor of section 2 with its buffer address bytes. -/
def txBytes (b1 b0 : Byte) : List Byte := [0x00, 0x00, 0x00, 0x00, b0, b1, 0x10, 0, 0, 0, 0, 0, 0, 0, 0, 0]

/-- The two rings of section 2. -/
def ringBytes : List Byte :=
  rxBytes 0x00 0xA0 ++ rxBytes 0x06 0xA0 ++ rxBytes 0x0C 0xA0 ++ rxBytes 0x12 0xA0 ++
    txBytes 0x18 0xA0 ++ txBytes 0x1E 0xA0 ++ txBytes 0x24 0xA0 ++ txBytes 0x2A 0xA0

/-- Bytes at increasing addresses. -/
def cells (a : Nat) : List Byte → Memory
  | [] => []
  | b :: bs => (a, b) :: cells (a + 1) bs

/-- The memory of section 2. -/
def bootMem : Memory := cells 0x100000 (blockBytes ++ ringBytes)

/-- The controller once attached, in a lifecycle state. -/
def ctlIn (lc : Lifecycle) : Ctl :=
  { Ctl.initial with
    lc := lc, accessMode := some .word, mac := some 0x554433221100, region := some ⟨0x100000, 0x30A0⟩
    ioClaimed := true, irqRegistered := true }

/-- A device with the latched values of `S_RUN`. -/
def devLatched : Dev :=
  { Dev.hReset with
    csr2 := 0x0010, swstyle := 2, padr := 0x554433221100, rdra := 0x100020, tdra := 0x100060, rlen := 4, tlen := 4 }

/-- The running device of `S_RUN`: CSR0 reads 0x0073. -/
def devRun : Dev :=
  { devLatched with
    devState := .running
    csr0 := { Csr0.clear with init := true, strt := true, rxon := true, txon := true, iena := true } }

/-- `S_RUN` (section 4.1). -/
def sRun : State :=
  { State.reset with dev := devRun, ctl := ctlIn .running, mem := bootMem }

/-- After `ATTACH` (section 4.1 step 1e). -/
def sAttached : State :=
  { State.reset with dev := { Dev.hReset with rap := 88 }, ctl := ctlIn .attached, mem := bootMem }

/-- After `INITIALIZE`, before `dev.init` (step 2f). -/
def sPending : State :=
  { State.reset with
    dev := { Dev.hReset with
      csr2 := 0x0010, swstyle := 2, devState := .initPending, csr0 := { Csr0.clear with init := true, iena := true } }
    ctl := ctlIn .initializing, mem := bootMem }

/-- After `dev.init`, before `ISR` (step 3). -/
def sInited : State :=
  { State.reset with
    dev := { devLatched with
      devState := .inited, csr0 := { Csr0.clear with init := true, iena := true, idon := true } }
    ctl := ctlIn .initializing, mem := bootMem }

/-- The reset state in dword mode. -/
def sDword : State := { State.reset with dev := { Dev.hReset with dwio := true } }

/-- The reset state with RAP set. -/
def sRap (dwio : Bool) (rap : Byte) : State :=
  { State.reset with dev := { Dev.hReset with dwio := dwio, rap := rap } }

/-- `S_RUN` with the two status bytes of a descriptor put by hand. -/
def withStatus (s : State) (d : Nat) (st : Half) : State := { s with mem := write16 s.mem d st }

/-- `S_RUN` with a completed 2-byte frame in RX slot 0. -/
def sFrame : State :=
  { sRun with
    mem := writeBytes (writeBytes bootMem 0x100020 [0x00, 0x03, 0xFE, 0xFF]) 0x1000A0 [0x12, 0x34] }

/-- `S_RUN` with a 2-byte frame posted in TX slot 0. -/
def sPosted : State :=
  { sRun with
    ctl := { ctlIn .running with txCur := 1 }
    mem := writeBytes (writeBytes bootMem 0x100060 [0x00, 0x83, 0xFE, 0xFF]) 0x1018A0 [0x12, 0x34] }

/-- A broadcast frame of seven bytes. -/
def bcast : Frame := ⟨[0xFF, 0xFF, 0xFF, 0xFF, 0xFF, 0xFF, 0x07], false, false, false⟩

/-- `S_RUN` with a frame on the wire. -/
def sWire : State := { sRun with env := { sRun.env with rxIn := [bcast] } }

/-- A state after `RELEASE`, with the region `g` freed. -/
def sFreed (g : Region) (s : State) : State :=
  { s with
    ctl := { s.ctl with
      lc := .released, irqRegistered := false, freed := some g, region := none, ioClaimed := false } }

set_option maxRecDepth 100000

set_option Elab.async false

theorem test_run_csr0 : csrRead sRun.dev 0 = 0x0073 := by decide
theorem test_inited_csr0 : csrRead sInited.dev 0 = 0x01C1 := by decide

theorem region_ok : regionOk Params.default 0x100000 = true := by decide +kernel

/-! ### Port requests (section 3.2) -/

theorem test_aprom_rb : after (exec (.apromRb 5) State.reset) =
    some { State.reset with result := .read 1 0x55 } := by decide
theorem test_aprom_rw : after (exec (.apromRw 4) State.reset) =
    some { State.reset with result := .read 2 0x5544 } := by decide
theorem test_aprom_rd : after (exec (.apromRd 0) sDword) =
    some { sDword with result := .read 4 0x33221100 } := by decide
theorem test_rdp_rw : after (exec .rdpRw State.reset) =
    some { State.reset with result := .read 2 0x0004 } := by decide
theorem test_rdp_rw_other_mode : after (exec .rdpRw sDword) =
    some { sDword with result := .read 2 0xFFFF } := by decide
theorem test_dwio_enter : after (exec (.dwioEnter 0) State.reset) =
    some { sDword with result := .written } := by decide
theorem test_rdp_ww : holdsAfter (exec (.rdpWw 0x0043) State.reset) fun t =>
    csrRead t.dev 0 == 0x0041 && t.dev.pendingStart && t.dev.devState == .initPending := by decide
theorem test_rdp_ww_stop_wins : holdsAfter (exec (.rdpWw 0x0045) State.reset) fun t =>
    csrRead t.dev 0 == 0x0004 := by decide
theorem test_rap_rw : after (exec .rapRw (sRap false 4)) =
    some { sRap false 4 with result := .read 2 0x0004 } := by decide
theorem test_rap_ww : after (exec (.rapWw 0x0104) State.reset) =
    some { sRap false 4 with result := .written } := by decide
theorem test_reset_rw : holdsAfter (exec .resetRw { sRun with dev := { devRun with rap := 15, csr112 := 5 } }) fun t =>
    csrRead t.dev 0 == 0x0004 && t.dev.rap == 0 && t.dev.csr112 == 0 && t.dev.swstyle == 2 && t.dev.csr2 == 0x10 := by
  decide
theorem test_bdp_rw : after (exec .bdpRw { sRap false 20 with dev := { (sRap false 20).dev with swstyle := 2 } }) =
    some { sRap false 20 with dev := { (sRap false 20).dev with swstyle := 2 }, result := .read 2 2 } := by decide
theorem test_bdp_ww : holdsAfter (exec (.bdpWw 0x0102) (sRap false 20)) fun t => t.dev.swstyle == 2 := by decide
theorem test_bdp_ww_running : holdsAfter (exec (.bdpWw 0x0000) { sRun with dev := { devRun with rap := 20 } }) fun t =>
    t.dev.swstyle == 2 := by decide
theorem test_rdp_rd : after (exec .rdpRd sDword) = some { sDword with result := .read 4 4 } := by decide
theorem test_rdp_wd : holdsAfter (exec (.rdpWd 0xFFFF0040) sDword) fun t => csrRead t.dev 0 == 0x0044 := by decide
theorem test_rap_rd : after (exec .rapRd (sRap true 20)) =
    some { sRap true 20 with result := .read 4 0x14 } := by decide
theorem test_rap_wd : after (exec (.rapWd 0x114) sDword) =
    some { sRap true 20 with result := .written } := by decide
theorem test_reset_rd : holdsAfter (exec .resetRd (sRap true 20)) fun t =>
    t.dev.dwio && t.dev.rap == 0 && t.resetReads == 1 := by decide
theorem test_bdp_rd : holdsAfter (exec .bdpRd (sRap true 19)) fun t => t.result == .read 4 0 := by decide
theorem test_bdp_wd : holdsAfter (exec (.bdpWd 2) (sRap true 20)) fun t => t.dev.swstyle == 2 := by decide

/-! ### Controller operations (sections 3.5, 3.7 and 4) -/

theorem test_attach : holdsAfter (exec .attach State.reset) fun t =>
    t.ctl == ctlIn .attached && t.mem == bootMem && t.dev == { Dev.hReset with rap := 88 } && t.result == .ok := by
  decide +kernel
theorem test_attach_no_device :
    holdsAfter (exec .attach (State.hReset Params.default { Platform.granting with deviceAnswers := false })) fun t =>
      t.result == .attachError .notRecognized && t.ctl == Ctl.initial := by decide +kernel
theorem test_initialize : holdsAfter (exec .initializeOp sAttached) fun t =>
    csrRead t.dev 0 == 0x0041 && t.dev.csr1 == 0 && t.dev.csr2 == 0x0010 && t.dev.swstyle == 2 &&
      t.ctl.lc == .initializing && t.mem == bootMem := by decide +kernel
theorem test_isr_starts : after (exec .isr sInited) = some { sRun with result := .serviced } := by decide +kernel
theorem test_isr_delivers :
    holdsAfter (exec .isr { sFrame with dev := { devRun with csr0 := { devRun.csr0 with rint := true } } }) fun t =>
      t.env.stackIn == [[0x12, 0x34]] && t.ctl.rxCur == 1 && t.ctl.counters.rxDelivered == 1 &&
        read16 t.mem 0x100020 == 0x8000 && csrRead t.dev 0 == 0x0073 := by decide +kernel
theorem test_transmit : holdsAfter (exec (.transmit (List.replicate 46 0xAA)) sRun) fun t =>
    t.result == .ok && csrRead t.dev 0 == 0x007B && read16 t.mem 0x100060 == 0x8300 && read16 t.mem 0x100062 == 0xFFD2 &&
      readBytes t.mem 0x1018A0 46 == List.replicate 46 0xAA && t.ctl.txCur == 1 := by decide +kernel
theorem test_transmit_full : holdsAfter (exec (.transmit [0xAA]) (withStatus sRun 0x100060 0x8300)) fun t =>
    t.result == .txError .notOwned && t.ctl.counters.txFull == 1 && t.ctl.txCur == 0 := by decide +kernel
theorem test_receive : holdsAfter (exec .receive sFrame) fun t =>
    t.result == .packet [0x12, 0x34] && t.ctl.rxCur == 1 && read16 t.mem 0x100020 == 0x8000 &&
      read16 t.mem 0x100022 == 0xFA00 := by decide +kernel
theorem test_receive_crc : holdsAfter (exec .receive (withStatus sRun 0x100020 0x4B00)) fun t =>
    t.result == .dropped && t.ctl.counters.rxCrc == 1 && t.ctl.counters.rxDropped == 1 := by decide +kernel
theorem test_disable : holdsAfter (exec .disable sRun) fun t =>
    csrRead t.dev 0 == 0x0004 && t.ctl.lc == .disabled && t.ctl.region == some ⟨0x100000, 0x30A0⟩ := by decide +kernel
theorem test_release : holdsAfter (exec .release sRun) fun t =>
    csrRead t.dev 0 == 0x0004 && t.ctl.lc == .released && t.ctl.region == none && !t.ctl.irqRegistered := by
  decide +kernel

/-! ### Agent steps (section 3.8) -/

theorem test_dev_init : agentStep .init sPending = sInited := by decide +kernel
theorem test_dev_init_outside : csrRead (agentStep .init { sPending with
    dev := { sPending.dev with csr2 := 0x0020 } }).dev 0 = 0x88C4 := by decide +kernel
theorem test_dev_tx_lcol :
    (fun t : State => (csrRead t.dev 0, read16 t.mem 0x100060, t.env.txOut)) (agentStep (.tx .lcol true) sPosted) =
      (0xA2F3, 0x5300, []) := by decide +kernel
theorem test_dev_rx : (fun t : State => (csrRead t.dev 0, read16 t.mem 0x100020, read16 t.mem 0x100022,
    readBytes t.mem 0x1000A0 7)) (agentStep .rx sWire) = (0x04F3, 0x0300, 0xFFF9, bcast.bytes) := by decide +kernel
theorem test_dev_rx_missed : (fun t : State => (csrRead t.dev 0, t.dev.csr112, csrRead t.dev 4))
    (agentStep .rx { withStatus sWire 0x100020 0x0300 with dev := { devRun with csr112 := 0xFFFF } }) =
      (0x90F3, 0, 0x0200) := by decide +kernel

/-! ### Moves inside an operation (section 3.7, ISR row 10; R326, R456) -/

/-- TINT set, a frame on the wire, and `dev.rx` scheduled between the handler's read of CSR0 and its write-back. -/
def sBetween : State :=
  { sWire with
    dev := { devRun with csr0 := { devRun.csr0 with tint := true } }, interleave := [[], [AgentStep.rx].map .agent] }

/-- `S_RUN` with a RAP write of the host between the two accesses of a CSR write. -/
def sHostRap : State := { sRun with interleave := [[.port 0xB2 [4, 0]]] }

theorem test_flag_raised_after_the_read : holdsAfter (exec .isr sBetween) fun t =>
    csrRead t.dev 0 == 0x04F3 && irq t.dev && t.env.stackIn == [] && t.ctl.rxCur == 0 := by decide +kernel
theorem test_host_port_read : move (.port 0x32 []) (sRap false 4) =
    { sRap false 4 with portAnswers := [.read 2 0x0004] } := by decide
theorem test_host_port_undecoded : move (.port 0x54 []) (sRap false 4) =
    { sRap false 4 with portAnswers := [.read 4 0xFFFFFFFF] } := by decide
theorem test_host_port_breaks_the_pair : holdsAfter (exec .disable sHostRap) fun t =>
    t.dev.rap == 4 && csrRead t.dev 0 == 0x0073 && t.ctl.lc == .disabled && t.portAnswers == [.written] := by
  decide +kernel

/-! ### The host's two definitions -/

theorem test_table_word : decodeTableWord 8 0x32 = some .rapRw := by decide
theorem test_fetch_word : after (step (State.reset.withFetchWord 8 0x54)) =
    some { sDword with result := .read 4 0 } := by decide

/-- R463: the block, a descriptor and a buffer in a freed region are not reached; a block that ends where it begins is. -/
theorem test_freed_not_reached :
    (let s := sFreed ⟨0x100000, 0x30A0⟩ sPending; agentStep .init s = s) ∧
    (let s := sFreed ⟨0x10006F, 1⟩ sPosted; agentStep (.tx .ok false) s = s) ∧
    (let s := sFreed ⟨0x1000A6, 1⟩ sWire; agentStep .rx s = s) := by decide +kernel
theorem test_freed_apart : (agentStep .init (sFreed ⟨0x10001C, 4⟩ sPending)).dev.csr0.idon = true ∧
    (agentStep .rx (sFreed ⟨0x1000A7, 1⟩ sWire)).dev.csr0.rint = true := by decide +kernel

/-! ### Witnesses: for each statement with hypotheses, concrete terms that meet them, one for each of its clauses -/

theorem witness_DecodeEncode :
    (Instr.apromRd 12).wf = true ∧ modeAdmits (rowMode (.apromRd 12)) true = true ∧
    (Instr.dwioEnter 0xFFFFFFFF).wf = true ∧ modeAdmits (rowMode (.dwioEnter 0xFFFFFFFF)) false = true ∧
    (Instr.rdpWd 0).wf = true ∧ modeAdmits (rowMode (.rdpWd 0)) true = true := by decide

theorem witness_EncodeDecode : decodeRequest true ⟨.pio, [0xD0, 1, 2, 3, 4]⟩ = .ok (.rdpWd 0x04030201) := by decide

theorem witness_PortDecoderFollowsTheMap :
    (∃ r ∈ portRows, r.takes true 0x4C = true) ∧ ∀ r ∈ portRows, r.takes true 0x4D = false := by decide

theorem witness_UndecodedRequestIsPerformed :
    (∀ r ∈ portRows, r.takes false 0x7F = false) ∧ (∀ r ∈ portRows, r.takes false 0xFF = false) ∧
    ({ State.reset with agenda := [.request ⟨.pio, [0x7F]⟩] } : State).refusal = none := by decide

theorem witness_RowOfTheOtherModeIsUndecoded :
    encode .rdpRd = ⟨.pio, 0x50 :: []⟩ ∧ modeAdmits (rowMode .rdpRd) State.reset.dev.dwio = false ∧
    encode (.rapWw 1) = ⟨.pio, 0xB2 :: [1, 0]⟩ ∧ modeAdmits (rowMode (.rapWw 1)) sDword.dev.dwio = false ∧
    State.reset.refusal = none ∧ sDword.refusal = none := by decide

theorem witness_ReservedOpIsRefused :
    (0x00 : Byte).extractLsb' 4 4 = 0 ∧ 8 ≤ ((0x80 : Byte).extractLsb' 4 4).toNat ∧
    (0x71 : Byte).extractLsb' 0 4 ≠ 0 ∧
    ({ State.reset with agenda := [.request ⟨.op, [0x80]⟩] } : State).refusal = none := by decide

theorem witness_StepRunsTheDecodedRequest :
    State.reset.refusal = none ∧ decodeRequest State.reset.dev.dwio ⟨.op, [0x10]⟩ = .ok .attach ∧
    decodeRequest sDword.dev.dwio ⟨.pio, [0x58]⟩ = .ok .resetRd := by decide

theorem witness_StepTakesAgentSteps :
    ({ sPending with agenda := [.agent .init] } : State).refusal = none ∧ sRun.dev.devState ≠ .initPending ∧
    sPending.dev.devState ≠ .running ∧
    ({ devRun with csr0 := { devRun.csr0 with txon := false } } : Dev).csr0.txon = false ∧ sRun.env.rxIn = [] ∧
    sRun.refusal = none ∧ bcast.bytes ≠ [] ∧ (⟨[], false, false, false⟩ : Frame).bytes = [] ∧
    barred .init (sFreed ⟨0x10001B, 1⟩ sPending) = true := by
  decide +kernel

/-- A read row, a write row, an undecoded read, and the RAP write inside DISABLE. -/
theorem witness_HostPortInsideAnOperation :
    (sRap false 4).refusal = none ∧ decodePio (sRap false 4).dev.dwio 0x32 [] = .ok .rapRw ∧
    decodePio (sRap false 4).dev.dwio 0xB2 [4, 0] = .ok (.rapWw 4) ∧
    (∀ r ∈ portRows, r.takes (sRap false 4).dev.dwio 0x54 = false) ∧
    sHostRap.refusal = none ∧ sHostRap.ctl.accessMode = some .word ∧ sHostRap.dev.dwio = (AccessMode.word == .dword) ∧
    sHostRap.ctl.lc = .running ∧ sHostRap.interleave = [[.port 0xB2 [4, 0]]] := by decide

theorem witness_RefusedRunStops : (refuse .loopback sPending).refusal = some .loopback := by decide

theorem witness_ApromReads :
    State.reset.refusal = none ∧ (14 : BitVec 4).getLsbD 0 = false ∧ (12 : BitVec 4).extractLsb' 0 2 = 0 := by decide

theorem witness_RapReadsAndWrites :
    sRun.refusal = none ∧ sRun.dev.dwio = false ∧ sDword.refusal = none ∧ sDword.dev.dwio = true := by decide

theorem witness_RdpReadsAndWrites :
    (sRap false 4).refusal = none ∧ (sRap false 4).dev.dwio = false ∧
    (sRap true 15).refusal = none ∧ (sRap true 15).dev.dwio = true := by decide

/-- RAP 20 while STOPPED and while RUNNING, and another RAP. -/
theorem witness_BdpReadsAndWrites :
    (sRap false 20).refusal = none ∧ (sRap false 20).dev.dwio = false ∧ (sRap false 20).dev.devState = .stopped ∧
    ({ sRun with dev := { devRun with rap := 20 } } : State).refusal = none ∧ devRun.devState ≠ .stopped ∧
    (sRap true 19).refusal = none ∧ (sRap true 19).dev.dwio = true := by decide

theorem witness_ResetReadsReset :
    sRun.refusal = none ∧ sRun.dev.dwio = false ∧ sDword.refusal = none ∧ sDword.dev.dwio = true := by decide

theorem witness_DwioEnterSwitchesAndWrites : sRun.refusal = none ∧ sRun.dev.dwio = false := by decide

theorem witness_PortRequestFrame : (encode .resetRw).fmt = .pio ∧ sRun.refusal = none := by decide

theorem witness_WidthIndependence :
    sRun.refusal = none ∧ sRun.dev.dwio = false ∧
    SameButMode sRun { sRun with dev := { devRun with dwio := true }, result := .ok } := ⟨by decide, by decide, rfl⟩

/-- A running device, and one that STOP has just left with an unmasked MFCO, meet the invariant. -/
theorem witness_CsrReadValues :
    devRun.Inv ∧ Dev.Inv { Dev.hReset with csr4 := ⟨true, false⟩, atStop := true } := by
  constructor <;> constructor <;> decide

/-- Values with and without STOP. -/
theorem witness_Csr0StopAndAcknowledge :
    (0x0004 : Half).getLsbD 2 = true ∧ (0xFFFF : Half).getLsbD 2 = true ∧ (0xFFFB : Half).getLsbD 2 = false := by decide

/-- R452: after STOP, CSR0 = 0x0004 and CSR4 is as it was, also with an unmasked MFCO (log entry 22). 95_test_vectors.md
section 3.4: RUNNING with that MFCO, CSR0 reads 0x00F3, and `irq` is 1; with MFCOM set it reads 0x0073. -/
theorem test_stop_with_mfco :
    let d := { devRun with csr4 := ⟨true, false⟩ }
    let m := { devRun with csr4 := ⟨true, true⟩ }
    csrRead (csrWrite d 0 4) 0 = 0x0004 ∧ (csrWrite d 0 4).csr4 = ⟨true, false⟩ ∧ csrRead (csrWrite m 0 4) 0 = 0x0004 ∧
    csrRead d 0 = 0x00F3 ∧ irq d = true ∧ csrRead m 0 = 0x0073 := by decide

/-- R25 in a STOPPED device: a write of CSR4 that unmasks MFCO, and a write of IENA, also one that is taken back, show it in
INTR, and with IENA the line rises (R38). -/
theorem test_mfco_while_stopped :
    let d := csrWrite { devRun with csr4 := ⟨true, true⟩ } 0 4
    let e := csrWrite (csrWrite { devRun with csr4 := ⟨true, false⟩ } 0 4) 0 0x0040
    csrRead (csrWrite d 4 0) 0 = 0x0084 ∧ csrRead e 0 = 0x00C4 ∧ irq e = true ∧ csrRead (csrWrite e 0 0) 0 = 0x0084 := by
  decide

/-- A device in each run state, with the bits each clause asks for. -/
theorem witness_Csr0Commands :
    (0x0003 : Half).getLsbD 2 = false ∧ Dev.hReset.devState = .stopped ∧ (0x0003 : Half).getLsbD 0 = true ∧
    sInited.dev.devState = .inited ∧ (0x0042 : Half).getLsbD 2 = false ∧ (0x0042 : Half).getLsbD 1 = true ∧
    sPending.dev.devState = .initPending ∧ (0x0040 : Half).getLsbD 0 = false ∧ (0x0040 : Half).getLsbD 1 = false ∧
    (0x0040 : Half).getLsbD 2 = false ∧ devRun.devState = .running := by decide

theorem witness_CsrWrites :
    Dev.hReset.devState = .stopped ∧ devRun.devState ≠ .stopped ∧
    (112 : Byte) ≠ 0 ∧ (112 : Byte) ≠ 1 ∧ (112 : Byte) ≠ 2 ∧ (112 : Byte) ≠ 4 ∧ (112 : Byte) ≠ 15 := by decide

/-- The running device meets the device invariant. -/
theorem devRun_inv : devRun.Inv := by
  constructor <;> decide

theorem sPending_inv : sPending.dev.Inv := by
  constructor <;> decide

theorem sInited_inv : sInited.dev.Inv := by
  constructor <;> decide

theorem reset_dev_inv : Dev.hReset.Inv := by
  constructor <;> decide

theorem witness_WriteBackIsSafe :
    (devRun.Inv ∧ devRun.devState ≠ .stopped) ∧ Dev.hReset.Inv ∧ Dev.hReset.devState = .stopped :=
  ⟨⟨devRun_inv, by decide⟩, reset_dev_inv, by decide⟩

theorem witness_OwnershipViolationsAreDetected :
    sRun.dev.devState ≠ .stopped ∧ (read16 sRun.mem 0x100020).getLsbD 15 = true ∧
    (read16 sRun.mem 0x100060).getLsbD 15 = false ∧ sAttached.dev.devState = .stopped := by decide +kernel

/-- The fetch refused for its style, failed at the window (one byte past its end), and refused for LOOP. -/
theorem witness_InitFetchThatLatchesNothing :
    sPending.refusal = none ∧ sPending.dev.devState = .initPending ∧
    ({ sPending.dev with swstyle := 0 } : Dev).swstyle ≠ 2 ∧ sPending.dev.swstyle = 2 ∧
    dmaOk sPending.cfg 0x103088 28 = false ∧
    ((((0x0010 : Half) ++ (0x3088 : Half)) : Word) &&& 0xFFFFFFFC).toNat = 0x103088 ∧
    dmaOk sPending.cfg ((sPending.dev.csr2 ++ sPending.dev.csr1 : Word) &&& 0xFFFFFFFC).toNat 28 = true ∧
    meetsFreed sPending (0x100000, 28) = false ∧
    (read16 (withStatus sPending 0x100000 0x0004).mem 0x100000).getLsbD 2 = true := by decide +kernel

/-- With no region freed, and with one freed that begins where the block ends. -/
theorem witness_InitFetchLatchesTheBlock :
    sPending.refusal = none ∧ sPending.dev.devState = .initPending ∧ sPending.dev.swstyle = 2 ∧
    ((sPending.dev.csr2 ++ sPending.dev.csr1 : Word) &&& 0xFFFFFFFC).toNat = 0x100000 ∧
    dmaOk sPending.cfg 0x100000 28 = true ∧ (read16 sPending.mem 0x100000).getLsbD 2 = false ∧
    meetsFreed sPending (0x100000, 28) = false ∧ meetsFreed (sFreed ⟨0x10001C, 4⟩ sPending) (0x100000, 28) = false ∧
    (readByte sPending.mem 0x100002).toNat / 16 = 2 ∧ (readByte sPending.mem 0x100003).toNat / 16 = 2 ∧
    sPending.dev.pendingStart = false ∧ ({ sPending.dev with pendingStart := true } : Dev).pendingStart = true := by
  decide +kernel

theorem witness_DeviceReadsTheControllersBlock :
    sPending.refusal = none ∧ sPending.dev.devState = .initPending ∧ sPending.dev.swstyle = 2 ∧
    sPending.cfg.wf = true ∧ regionOk sPending.cfg 0x100000 = true ∧ sPending.cfg.initMode.getLsbD 2 = false ∧
    meetsFreed sPending (0x100000, 28) = false ∧
    (sPending.dev.csr2 ++ sPending.dev.csr1 : Word) = BitVec.ofNat 32 0x100000 :=
  ⟨rfl, rfl, rfl, by decide, region_ok, by decide, rfl, by decide⟩

theorem witness_TxPollReturnsTheFrame :
    sPosted.refusal = none ∧ sPosted.dev.devState = .running ∧ sPosted.dev.csr0.txon = true ∧
    sPosted.dev.tdra.toNat + 16 * sPosted.dev.txCurDev = 0x100060 ∧ dmaOk sPosted.cfg 0x100060 16 = true ∧
    (read16 sPosted.mem 0x100060).getLsbD 15 = true ∧ (read16 sPosted.mem 0x100060).getLsbD 9 = true ∧
    (read16 sPosted.mem 0x100060).getLsbD 8 = true ∧ dec16 (read16 sPosted.mem 0x100062) = (2 : Nat) ∧
    (read32 sPosted.mem 0x100064).toNat = 0x1018A0 ∧ dmaOk sPosted.cfg 0x1018A0 2 = true ∧
    meetsFreed sPosted (0x100060, 16) = false ∧ meetsFreed sPosted (0x1018A0, 2) = false := by decide +kernel

/-- A descriptor without ENP; a byte count of 0x0000 and one of 0xF000 (lengths 0 and 4096); a buffer outside the window. -/
theorem witness_TxPollReturnsBadDescriptors :
    sPosted.refusal = none ∧ sPosted.dev.devState = .running ∧ sPosted.dev.csr0.txon = true ∧
    dmaOk sPosted.cfg 0x100060 16 = true ∧
    (read16 (withStatus sPosted 0x100060 0x8200).mem 0x100060).getLsbD 15 = true ∧
    (read16 (withStatus sPosted 0x100060 0x8200).mem 0x100060).getLsbD 8 = false ∧
    dec16 (read16 (withStatus sPosted 0x100062 0x0000).mem 0x100062) < 1 ∧
    4095 < dec16 (read16 (withStatus sPosted 0x100062 0xF000).mem 0x100062) ∧
    (read32 (withStatus sPosted 0x100066 0x0020).mem 0x100064).toNat = 0x2018A0 ∧
    dmaOk sPosted.cfg 0x2018A0 2 = false ∧ meetsFreed sPosted (0x100060, 16) = false := by decide +kernel

theorem witness_TxPollWithoutDescriptor :
    sRun.refusal = none ∧ sRun.dev.devState = .running ∧ sRun.dev.csr0.txon = true ∧
    sRun.dev.tdra.toNat + 16 * sRun.dev.txCurDev = 0x100060 ∧ dmaOk sRun.cfg 0x100060 16 = true ∧
    (read16 sRun.mem 0x100060).getLsbD 15 = false ∧ dmaOk sRun.cfg 0x200000 16 = false ∧
    meetsFreed sRun (0x100060, 16) = false := by decide +kernel

/-- A frame the slot holds, one longer than its capacity, and a slot whose byte count gives no capacity. -/
theorem witness_RxFillsTheDescriptor :
    sWire.refusal = none ∧ sWire.env.rxIn = [bcast] ∧ sWire.dev.devState = .running ∧ sWire.dev.csr0.rxon = true ∧
    acceptFrame sWire.dev bcast = true ∧ sWire.dev.rdra.toNat + 16 * sWire.dev.rxCurDev = 0x100020 ∧
    dmaOk sWire.cfg 0x100020 16 = true ∧ (read16 sWire.mem 0x100020).getLsbD 15 = true ∧
    dec16 (read16 sWire.mem 0x100022) = (1536 : Nat) ∧ (read32 sWire.mem 0x100024).toNat = 0x1000A0 ∧
    dmaOk sWire.cfg 0x1000A0 7 = true ∧ 0x100020 + 4 ≤ 0x1000A0 ∧ meetsFreed sWire (0x100020, 16) = false ∧
    meetsFreed sWire (0x1000A0, 7) = false ∧ meetsFreed sWire (0x1000A0, 1) = false ∧
    dec16 (read16 (withStatus sWire 0x100022 0xFFFF).mem 0x100022) = (1 : Nat) ∧
    dmaOk sWire.cfg 0x1000A0 1 = true ∧ dec16 (read16 (withStatus sWire 0x100022 0x0000).mem 0x100022) < 1 := by
  decide +kernel

/-- A frame for another station, a ring outside the window, a software-owned slot, a buffer outside the window. -/
theorem witness_RxDropsTheFrame :
    sWire.refusal = none ∧ sWire.env.rxIn = [bcast] ∧ Dev.hReset.devState ≠ .running ∧
    ({ devRun.csr0 with rxon := false } : Csr0).rxon = false ∧ devRun.devState = .running ∧ devRun.csr0.rxon = true ∧
    acceptFrame devRun ⟨[2, 0, 0, 0, 0, 9], false, false, false⟩ = false ∧ acceptFrame devRun bcast = true ∧
    dmaOk sWire.cfg 0x200000 16 = false ∧ dmaOk sWire.cfg 0x100020 16 = true ∧ meetsFreed sWire (0x100020, 16) = false ∧
    (read16 (withStatus sWire 0x100020 0x0300).mem 0x100020).getLsbD 15 = false ∧
    (read16 sWire.mem 0x100020).getLsbD 15 = true ∧ dec16 (read16 sWire.mem 0x100022) = 1536 ∧ bcast.bytes ≠ [] ∧
    (read32 (withStatus sWire 0x100026 0x0020).mem 0x100024).toNat = 0x2000A0 ∧
    dmaOk sWire.cfg 0x2000A0 (min bcast.bytes.length (1536 : Int).toNat) = false := by decide +kernel

/-- The byte before the window, the byte after it, and the top of memory. -/
theorem witness_DeviceStaysInTheWindow :
    windowHas sRun.cfg.dmaWindow 0x0FFFFF = false ∧ windowHas sRun.cfg.dmaWindow 0x1030A0 = false ∧
    memoryTop ≤ 4294967296 := by decide

theorem witness_StoppedDeviceIsQuiet : sAttached.dev.devState = .stopped := by decide

/-- The machine at reset, where an attach succeeds; the default probe value is below 256. -/
theorem witness_AttachBuildsTheRegion :
    State.reset.Alone ∧ State.reset.ctl.lc = .unattached ∧ State.reset.env.platform.ioBaseKnown = true ∧
    State.reset.env.platform.irqAvailable = true ∧ State.reset.env.platform.ioAvailable = true ∧
    State.reset.env.platform.deviceAnswers = true ∧ State.reset.env.platform.alloc = some 0x100000 ∧
    regionOk State.reset.cfg 0x100000 = true ∧ State.reset.cfg.probeValue.toNat < 256 :=
  ⟨⟨rfl, rfl⟩, rfl, rfl, rfl, rfl, rfl, rfl, region_ok, by decide⟩

/-- The reset state with other answers of the platform. -/
def sPlatform (g : Platform) : State := State.hReset Params.default g

/-- The hypotheses of every clause but those on the platform's answers. -/
theorem sPlatform_unattached (g : Platform) :
    (sPlatform g).Alone ∧ (sPlatform g).ctl.lc = .unattached ∧ (sPlatform g).ctl.region = none ∧
    (sPlatform g).ctl.ioClaimed = false ∧ (sPlatform g).ctl.irqRegistered = false ∧
    (sPlatform g).cfg.probeValue.toNat < 256 := ⟨⟨rfl, rfl⟩, rfl, rfl, rfl, rfl, by
    show Params.default.probeValue.toNat < 256
    decide⟩

/-- A platform for each clause: no base information, no IRQ, no ports, no device, no memory, and a base that is not a
multiple of 16. -/
theorem witness_AttachFailsWithoutLeak :
    (let g := (sPlatform ⟨false, true, true, true, none⟩).env.platform;
      g.ioBaseKnown = false) ∧
    (let g := (sPlatform ⟨true, false, true, true, none⟩).env.platform;
      g.ioBaseKnown = true ∧ g.irqAvailable = false) ∧
    (let g := (sPlatform ⟨true, true, false, true, none⟩).env.platform;
      g.ioBaseKnown = true ∧ g.irqAvailable = true ∧ g.ioAvailable = false) ∧
    (let g := (sPlatform ⟨true, true, true, false, none⟩).env.platform;
      g.ioBaseKnown = true ∧ g.irqAvailable = true ∧ g.ioAvailable = true ∧ g.deviceAnswers = false) ∧
    (let g := (sPlatform ⟨true, true, true, true, none⟩).env.platform;
      g.ioBaseKnown = true ∧ g.irqAvailable = true ∧ g.ioAvailable = true ∧ g.deviceAnswers = true ∧ g.alloc = none) ∧
    (let g := (sPlatform ⟨true, true, true, true, some 0x100008⟩).env.platform;
      g.deviceAnswers = true ∧ g.alloc = some 0x100008 ∧ regionOk Params.default 0x100008 = false) ∧
    ∀ g, (sPlatform g).Alone ∧ (sPlatform g).ctl.lc = .unattached ∧ (sPlatform g).ctl.region = none ∧
      (sPlatform g).ctl.ioClaimed = false ∧ (sPlatform g).ctl.irqRegistered = false ∧
      (sPlatform g).cfg.probeValue.toNat < 256 :=
  ⟨rfl, ⟨rfl, rfl⟩, ⟨rfl, rfl, rfl⟩, ⟨rfl, rfl, rfl, rfl⟩, ⟨rfl, rfl, rfl, rfl, rfl⟩,
    ⟨rfl, rfl, by decide +kernel⟩, sPlatform_unattached⟩

theorem sRun_alone : sRun.Alone := ⟨rfl, rfl⟩

theorem sRun_fits : sRun.Fits .word := ⟨rfl, rfl⟩

theorem sRun_holds : sRun.Holds 0x100000 := ⟨by decide, by decide, by decide, by decide⟩

theorem witness_InitializeIssuesInit :
    sAttached.Alone ∧ sAttached.Fits .word ∧ sAttached.Holds 0x100000 ∧ sAttached.ctl.lc = .attached ∧
    (ctlIn .disabled).lc = .disabled :=
  ⟨⟨rfl, rfl⟩, ⟨rfl, rfl⟩, ⟨by decide, by decide, by decide, by decide⟩, rfl, rfl⟩

theorem witness_BringUpReachesRunning :
    State.reset.Alone ∧ State.reset.ctl.lc = .unattached ∧ State.reset.env.platform = Platform.granting ∧
    regionOk State.reset.cfg 0x100000 = true ∧ State.reset.cfg.probeValue.toNat < 256 ∧ State.reset.cfg.wf = true ∧
    State.reset.cfg.initMode = 0 ∧ State.reset.ctl.freed = none :=
  ⟨⟨rfl, rfl⟩, rfl, rfl, region_ok, by decide, by decide, rfl, rfl⟩

theorem witness_IllegalOperationsChangeNothing :
    sRun.refusal = none ∧ sRun.ctl.lc ≠ .unattached ∧ sRun.ctl.lc ≠ .attached ∧ sRun.ctl.lc ≠ .disabled ∧
    sAttached.ctl.lc ≠ .initializing ∧ sAttached.ctl.lc ≠ .running ∧ sAttached.ctl.lc = .attached ∧
    State.reset.ctl.lc = .unattached ∧ State.reset.ctl.irqRegistered = false := by decide

theorem witness_IsrStartsTheDevice :
    sInited.Alone ∧ sInited.Fits .word ∧ sInited.dev.Inv ∧ sInited.ctl.irqRegistered = true ∧
    sInited.ctl.lc = .initializing ∧ sInited.dev.devState = .inited ∧ sInited.dev.csr0.idon = true ∧
    sInited.dev.csr0.rint = false :=
  ⟨⟨rfl, rfl⟩, ⟨rfl, rfl⟩, sInited_inv, rfl, rfl, rfl, rfl, rfl⟩

theorem sBetween_inv : sBetween.dev.Inv := by
  constructor <;> decide

/-- An undisturbed service, and one with `dev.rx` between the read and the write-back, which leaves the run live. -/
theorem witness_IsrAcknowledgesAndCounts :
    (sRun.refusal = none ∧ sRun.Fits .word ∧ sRun.dev.Inv ∧ sRun.ctl.irqRegistered = true ∧
      sRun.dev.devState ≠ .stopped ∧ sRun.dev.csr0.idon = false ∧ sRun.ctl.lc ≠ .initializing ∧
      sRun.dev.csr0.rint = false ∧ sRun.interleave = []) ∧
    (sBetween.refusal = none ∧ sBetween.Fits .word ∧ sBetween.dev.Inv ∧ sBetween.ctl.irqRegistered = true ∧
      sBetween.dev.devState ≠ .stopped ∧ sBetween.dev.csr0.idon = false ∧ sBetween.dev.csr0.rint = false ∧
      sBetween.interleave = [[], [AgentStep.rx].map .agent] ∧
      (agentSteps [.rx]
        { sBetween with dev := { sBetween.dev with rap := 0 }, interleave := [] }).refusal = none) :=
  ⟨⟨rfl, sRun_fits, devRun_inv, rfl, by decide, rfl, by decide, rfl, rfl⟩,
    rfl, ⟨rfl, rfl⟩, sBetween_inv, rfl, by decide, rfl, rfl, rfl, by decide +kernel⟩

/-- `S_RUN` with RINT, a frame in slot 0, an error in slot 1 and slots 2 and 3 device-owned. -/
def sDrain : State :=
  { sFrame with
    dev := { devRun with csr0 := { devRun.csr0 with rint := true } }, mem := write16 sFrame.mem 0x100030 0x4B00 }

theorem sDrain_inv : sDrain.dev.Inv := by
  constructor <;> decide

theorem sDrain_slot0 : RxHolds sDrain.cfg 0x100000 0 sDrain.mem [0x12, 0x34] :=
  ⟨by decide +kernel, by decide +kernel, by decide, by decide, by decide +kernel⟩

/-- The slots of `sDrain` are a payload and none; the empty list is met by `S_RUN` with RINT. -/
theorem witness_IsrDrainsInRingOrder :
    sDrain.Alone ∧ sDrain.Fits .word ∧ sDrain.dev.Inv ∧ sDrain.Holds 0x100000 ∧ sDrain.cfg.wf = true ∧
    sDrain.ctl.irqRegistered = true ∧ sDrain.ctl.lc = .running ∧ sDrain.dev.devState = .running ∧
    sDrain.dev.csr0.rint = true ∧ [some [(0x12 : Byte), 0x34], none].length ≤ rxLen sDrain.cfg ∧
    RxHolds sDrain.cfg 0x100000 ((sDrain.ctl.rxCur + 0) % rxLen sDrain.cfg) sDrain.mem [0x12, 0x34] ∧
    (read16 sDrain.mem (rxDescAddr 0x100000 ((sDrain.ctl.rxCur + 1) % rxLen sDrain.cfg))).getLsbD 15 = false ∧
    (read16 sDrain.mem (rxDescAddr 0x100000 ((sDrain.ctl.rxCur + 1) % rxLen sDrain.cfg))).getLsbD 14 = true ∧
    (read16 sDrain.mem (rxDescAddr 0x100000 ((sDrain.ctl.rxCur + 2) % rxLen sDrain.cfg))).getLsbD 15 = true :=
  ⟨⟨rfl, rfl⟩, ⟨rfl, rfl⟩, sDrain_inv, ⟨by decide, by decide, by decide, by decide⟩, by decide, rfl, rfl, rfl, rfl,
    by decide, sDrain_slot0, by decide +kernel, by decide +kernel, by decide +kernel⟩

theorem witness_DrainNeverRunsOut : sDrain.refusal = none ∧ drainBound sDrain ≤ 6 := by decide

/-- A failed fetch: MERR with IENA on a STOPPED device, the controller INITIALIZING. -/
def sFailed : State :=
  { sPending with dev := { Dev.hReset with swstyle := 2, csr0 := { Csr0.clear with merr := true, iena := true } } }

theorem sFailed_inv : sFailed.dev.Inv := by
  constructor <;> decide

theorem sAttached_inv : sAttached.dev.Inv := by
  constructor <;> decide

/-- After a failed fetch, and a spurious dispatch in ATTACHED. -/
theorem witness_FailedFetchSilencesTheDevice :
    (sFailed.Alone ∧ sFailed.Fits .word ∧ sFailed.dev.Inv ∧ sFailed.ctl.irqRegistered = true ∧
      sFailed.dev.devState = .stopped ∧ sFailed.dev.csr0.merr = true) ∧
    (sAttached.Alone ∧ sAttached.Fits .word ∧ sAttached.dev.Inv ∧ sAttached.ctl.irqRegistered = true ∧
      sAttached.dev.devState = .stopped) :=
  ⟨⟨⟨rfl, rfl⟩, ⟨rfl, rfl⟩, sFailed_inv, rfl, rfl, rfl⟩, ⟨rfl, rfl⟩, ⟨rfl, rfl⟩, sAttached_inv, rfl, rfl⟩

/-- Payloads of the shortest and the longest legal length. -/
theorem witness_TransmitPostsTheFrame :
    sRun.Alone ∧ sRun.Fits .word ∧ sRun.Holds 0x100000 ∧ sRun.ctl.lc = .running ∧ 1 ≤ [(0xAA : Byte)].length ∧
    (List.replicate 1536 (0xAA : Byte)).length ≤ sRun.cfg.bufferSize ∧
    (read16 sRun.mem (txDescAddr sRun.cfg 0x100000 sRun.ctl.txCur)).getLsbD 15 = false :=
  ⟨sRun_alone, sRun_fits, sRun_holds, rfl, by decide, by rw [List.length_replicate]; decide, by decide +kernel⟩

theorem witness_TransmitThatPostsNothing :
    sRun.refusal = none ∧ sRun.Fits .word ∧ sRun.Holds 0x100000 ∧ sRun.ctl.lc = .running ∧
    sRun.cfg.bufferSize < (List.replicate 1537 (0xAA : Byte)).length ∧ [(0xAA : Byte)] ≠ [] ∧
    (read16 (withStatus sRun 0x100060 0x8300).mem (txDescAddr sRun.cfg 0x100000 0)).getLsbD 15 = true :=
  ⟨rfl, sRun_fits, sRun_holds, rfl, by rw [List.length_replicate]; decide, by decide, by decide +kernel⟩

theorem witness_ReceiveDeliversTheFrame :
    sFrame.refusal = none ∧ sFrame.Holds 0x100000 ∧ sFrame.cfg.wf = true ∧ sFrame.ctl.lc = .running ∧
    RxHolds sFrame.cfg 0x100000 sFrame.ctl.rxCur sFrame.mem [0x12, 0x34] :=
  ⟨rfl, ⟨by decide, by decide, by decide, by decide⟩, by decide, rfl,
    ⟨by decide +kernel, by decide +kernel, by decide, by decide, by decide +kernel⟩⟩

/-- The slot at the cursor device-owned, with an error, without ENP, and with byte counts 0x0000 and 0xF9FF (lengths 0 and
1537). -/
theorem witness_ReceiveDropsOrFindsNothing :
    sRun.refusal = none ∧ sRun.Holds 0x100000 ∧ sRun.ctl.lc = .running ∧
    (read16 sRun.mem (rxDescAddr 0x100000 sRun.ctl.rxCur)).getLsbD 15 = true ∧
    (read16 (withStatus sRun 0x100020 0x4000).mem (rxDescAddr 0x100000 0)).getLsbD 14 = true ∧
    (read16 (withStatus sRun 0x100020 0x0200).mem (rxDescAddr 0x100000 0)).getLsbD 8 = false ∧
    dec16 (read16 (withStatus sRun 0x100022 0x0000).mem (rxDescAddr 0x100000 0 + 2)) < 1 ∧
    1536 < dec16 (read16 (withStatus sRun 0x100022 0xF9FF).mem (rxDescAddr 0x100000 0 + 2)) :=
  ⟨rfl, sRun_holds, rfl, by decide +kernel, by decide +kernel, by decide +kernel, by decide +kernel, by decide +kernel⟩

theorem witness_TransmitRoundTrip :
    sRun.Alone ∧ sRun.Fits .word ∧ sRun.Holds 0x100000 ∧ sRun.cfg.wf = true ∧ regionOk sRun.cfg 0x100000 = true ∧
    sRun.ctl.freed = none ∧ sRun.ctl.lc = .running ∧ sRun.dev.devState = .running ∧ sRun.dev.csr0.txon = true ∧
    sRun.dev.tdra.toNat = 0x100000 + txRingOff sRun.cfg ∧ sRun.dev.txCurDev = sRun.ctl.txCur ∧
    (read16 sRun.mem (txDescAddr sRun.cfg 0x100000 sRun.ctl.txCur)).getLsbD 15 = false :=
  ⟨sRun_alone, sRun_fits, sRun_holds, by decide, region_ok, by decide, by decide, rfl, rfl, by decide, rfl,
    by decide +kernel⟩

theorem sWire_armed : RxArmed sWire.cfg 0x100000 sWire.ctl.rxCur sWire.mem :=
  ⟨by decide +kernel, by decide +kernel, by decide +kernel, by decide +kernel, by decide +kernel⟩

theorem witness_ReceiveRoundTrip :
    sWire.refusal = none ∧ sWire.Holds 0x100000 ∧ sWire.cfg.wf = true ∧ regionOk sWire.cfg 0x100000 = true ∧
    sWire.ctl.freed = none ∧ sWire.ctl.lc = .running ∧ sWire.dev.devState = .running ∧ sWire.dev.csr0.rxon = true ∧
    sWire.dev.rdra.toNat = 0x100000 + rxRingOff ∧ sWire.dev.rxCurDev = sWire.ctl.rxCur ∧
    RxArmed sWire.cfg 0x100000 sWire.ctl.rxCur sWire.mem ∧ sWire.env.rxIn = [bcast] ∧
    acceptFrame sWire.dev bcast = true ∧ bcast.framErr = false ∧ bcast.ofloErr = false ∧ bcast.crcErr = false ∧
    bcast.bytes ≠ [] ∧ bcast.bytes.length ≤ sWire.cfg.bufferSize :=
  ⟨rfl, ⟨by decide, by decide, by decide, by decide⟩, by decide, region_ok, by decide, by decide, rfl, rfl, by decide, rfl,
    sWire_armed, rfl, by decide, rfl, rfl, rfl, by decide, by decide⟩

theorem witness_DisableStopsTheDevice :
    sRun.Alone ∧ sRun.Fits .word ∧ sRun.ctl.lc = .running ∧ sAttached.ctl.lc = .attached ∧
    sPending.ctl.lc = .initializing := ⟨sRun_alone, sRun_fits, rfl, rfl, rfl⟩

theorem witness_ReleaseGivesEverythingBack :
    sRun.Alone ∧ sRun.Fits .word ∧ sRun.ctl.lc = .running ∧
    ({ sAttached with ctl := ctlIn .disabled } : State).Alone ∧
    ({ sAttached with ctl := ctlIn .disabled } : State).Fits .word ∧ (ctlIn .disabled).lc = .disabled ∧
    sAttached.dev.devState = .stopped ∧ (sFreed ⟨0x100000, 0x30A0⟩ sWire).ctl.freed = some ⟨0x100000, 0x30A0⟩ ∧
    SameOutside 0x100000 0x30A0 sWire.mem (write16 sWire.mem 0x100020 0) :=
  ⟨sRun_alone, sRun_fits, rfl, ⟨rfl, rfl⟩, ⟨rfl, rfl⟩, rfl, rfl, rfl,
    fun _ h => readByte_write16_outside _ _ _ _ (by omega)⟩

theorem sRun_freed : sRun.ctl.freed = none := by decide

/-- `S_RUN` has the invariant. -/
theorem sRun_inv : sRun.Inv where
  memory := by decide +kernel
  addresses := by decide +kernel
  dev := devRun_inv
  env := ⟨by decide, by decide, by decide⟩
  ctl :=
    { rxCur := by decide
      txCur := by decide
      region := by
        intro r h
        have e : r = ⟨0x100000, 0x30A0⟩ := (Option.some.inj h).symm
        subst e
        exact ⟨region_ok, by decide⟩
      freed := fun _ h => by rw [sRun_freed] at h; cases h
      owned := fun _ => ⟨rfl, rfl, rfl, rfl, rfl⟩
      unowned := fun h => by cases h }

theorem witness_StepKeepsTheInvariant : sRun.Inv ∧ step sRun = .next sRun := ⟨sRun_inv, rfl⟩

theorem witness_NoStepFaults : sRun.Inv := sRun_inv

theorem witness_StepNeverTakesBack :
    holdsAfter (step { sRun with dev := { devRun with dwio := true }, agenda := [.request ⟨.pio, [0x58]⟩] }) (fun t =>
      t.dev.dwio) = true ∧
    holdsAfter (step { sRun with ctl := { Ctl.initial with lc := .released }, agenda := [.request ⟨.op, [0x10]⟩] })
      (fun t => t.ctl.lc == .released && t.result == .badState) = true ∧
    (let s := sFreed ⟨0x100000, 0x30A0⟩ sWire; s.ctl.lc = .released ∧ s.ctl.freed = some ⟨0x100000, 0x30A0⟩) := by decide

end Sys2Proof.Tests
end

section
/-!
PROOF. Proofs of the statements of 00_scope.md: what a step of the device or the environment leaves as it was, and what
it can only add to (00_scope.md R5, 10_state.md R49, 70_reset_and_hazards.md R456).
-/

namespace Sys2Proof.Machine

/-! ### The relation between the state before and after an agent step

Each structure is a preorder whose fields default to "unchanged", so the proof for an update names only the fields the
update adds to. -/

/-- From CSR0 `c` to `c'` IENA is unchanged and no write-1-to-clear flag goes from set to clear. -/
structure Csr0.AgentFrame (c c' : Csr0) : Prop where
  iena : c'.iena = c.iena := by rfl
  babl : c.babl = true → c'.babl = true := by exact id
  cerr : c.cerr = true → c'.cerr = true := by exact id
  miss : c.miss = true → c'.miss = true := by exact id
  merr : c.merr = true → c'.merr = true := by exact id
  rint : c.rint = true → c'.rint = true := by exact id
  tint : c.tint = true → c'.tint = true := by exact id
  idon : c.idon = true → c'.idon = true := by exact id

@[refl] theorem Csr0.AgentFrame.refl (c : Csr0) : c.AgentFrame c := {}

theorem Csr0.AgentFrame.trans {c₁ c₂ c₃ : Csr0} (h : c₁.AgentFrame c₂) (k : c₂.AgentFrame c₃) :
    c₁.AgentFrame c₃ where
  iena := k.iena.trans h.iena
  babl := k.babl ∘ h.babl
  cerr := k.cerr ∘ h.cerr
  miss := k.miss ∘ h.miss
  merr := k.merr ∘ h.merr
  rint := k.rint ∘ h.rint
  tint := k.tint ∘ h.tint
  idon := k.idon ∘ h.idon

/-- From device `d` to `d'` the registers only the host writes are unchanged and no flag is cleared. -/
structure Dev.AgentFrame (d d' : Dev) : Prop where
  rap : d'.rap = d.rap := by rfl
  dwio : d'.dwio = d.dwio := by rfl
  csr1 : d'.csr1 = d.csr1 := by rfl
  csr2 : d'.csr2 = d.csr2 := by rfl
  swstyle : d'.swstyle = d.swstyle := by rfl
  mfcom : d'.csr4.mfcom = d.csr4.mfcom := by rfl
  atStop : d'.atStop = d.atStop := by rfl
  csr0 : d.csr0.AgentFrame d'.csr0 := by exact {}
  mfco : d.csr4.mfco = true → d'.csr4.mfco = true := by exact id

@[refl] theorem Dev.AgentFrame.refl (d : Dev) : d.AgentFrame d := {}

theorem Dev.AgentFrame.trans {d₁ d₂ d₃ : Dev} (h : d₁.AgentFrame d₂) (k : d₂.AgentFrame d₃) :
    d₁.AgentFrame d₃ where
  rap := k.rap.trans h.rap
  dwio := k.dwio.trans h.dwio
  csr1 := k.csr1.trans h.csr1
  csr2 := k.csr2.trans h.csr2
  swstyle := k.swstyle.trans h.swstyle
  mfcom := k.mfcom.trans h.mfcom
  atStop := k.atStop.trans h.atStop
  csr0 := h.csr0.trans k.csr0
  mfco := k.mfco ∘ h.mfco

/-- From `s` to `t` the device keeps its frame, the wire and the recorded faults only grow, and nothing is delivered.
The controller, the parameters and the schedule are not in it: the `@[simp]` lemmas of `agentStep` say those. -/
structure State.AgentFrame (s t : State) : Prop where
  dev : s.dev.AgentFrame t.dev := by exact {}
  stackIn : t.env.stackIn = s.env.stackIn := by rfl
  txOut : s.env.txOut <+: t.env.txOut := by exact List.prefix_rfl
  faults : s.faults <+: t.faults := by exact List.prefix_rfl

@[refl] theorem State.AgentFrame.refl (s : State) : s.AgentFrame s := {}

theorem State.AgentFrame.trans {s₁ s₂ s₃ : State} (h : s₁.AgentFrame s₂) (k : s₂.AgentFrame s₃) :
    s₁.AgentFrame s₃ where
  dev := h.dev.trans k.dev
  stackIn := k.stackIn.trans h.stackIn
  txOut := h.txOut.trans k.txOut
  faults := h.faults.trans k.faults

/-! ### The device's own updates -/

theorem setMerr_agentFrame (d : Dev) : d.AgentFrame (setMerr d) :=
  { csr0 := { merr := fun _ => rfl } }

theorem initFail_agentFrame (d : Dev) : d.AgentFrame (initFail d) :=
  { csr0 := { merr := fun _ => rfl } }

theorem latchInitBlock_agentFrame (m : Memory) (a : Nat) (d : Dev) : d.AgentFrame (latchInitBlock m a d) :=
  { csr0 := { idon := fun _ => rfl } }

theorem startIfPending_agentFrame (d : Dev) : d.AgentFrame (startIfPending d) := by
  unfold startIfPending
  split
  · exact {}
  · rfl

theorem missedFrame_agentFrame (d : Dev) : d.AgentFrame (missedFrame d) :=
  { csr0 := { miss := fun _ => rfl }
    mfco := fun h => by simp [missedFrame, h] }

/-! ### The fetch -/

theorem devInit_agentFrame (s : State) : s.AgentFrame (devInit s) := by
  unfold devInit
  dsimp only
  split_ifs with hstyle hdma hloop
  · exact {}
  · exact { dev := initFail_agentFrame _ }
  · exact {}
  · exact { dev := (latchInitBlock_agentFrame ..).trans (startIfPending_agentFrame _) }

/-! ### Returning a descriptor -/

theorem claimDesc_agentFrame (r : Ring) (i d : Nat) (st : Half) (s : State) :
    s.AgentFrame (claimDesc r i d st s) := by
  rcases claimDesc_cases r i d st s with ⟨_, e⟩ | ⟨_, e⟩ <;> rw [e]
  · exact {}
  · exact { faults := List.prefix_append _ _ }

theorem txReturn_agentFrame (i d : Nat) (st : Half) (s : State) : s.AgentFrame (txReturn i d st s) :=
  (claimDesc_agentFrame .tx i d st s).trans { dev := { csr0 := { tint := fun _ => rfl } } }

theorem rxComplete_agentFrame (i d n : Nat) (st : Half) (s : State) : s.AgentFrame (rxComplete i d n st s) :=
  have hcount : s.AgentFrame { s with mem := write16 s.mem (d + 2) (neg16 n) } := {}
  have hclaim := claimDesc_agentFrame .rx i d st { s with mem := write16 s.mem (d + 2) (neg16 n) }
  (hcount.trans hclaim).trans { dev := { csr0 := { rint := fun _ => rfl } } }

/-! ### Transmit -/

theorem txSend_agentFrame (f : List Byte) (s : State) : s.AgentFrame (txSend f s) where
  dev := { csr0 := { babl := fun h => by simp [txSend, h] } }
  txOut := List.prefix_append _ _

theorem txOutcomeStep_agentFrame (o : TxOutcome) (f : List Byte) (st : Half) (s : State) :
    s.AgentFrame (txOutcomeStep o f st s).2 := by
  cases o with
  | ok => exact txSend_agentFrame f s
  | uflo => rfl
  | lcol => rfl

theorem txDescriptor_agentFrame (o : TxOutcome) (c : Bool) (i d : Nat) (s : State) :
    s.AgentFrame (txDescriptor o c i d s) := by
  unfold txDescriptor
  dsimp only
  split
  · split_ifs with hdma
    · have hmerr : s.AgentFrame { s with dev := setMerr s.dev } := { dev := setMerr_agentFrame _ }
      exact hmerr.trans (txReturn_agentFrame ..)
    · have hcerr : s.AgentFrame
          { s with dev := { s.dev with csr0 := { s.dev.csr0 with cerr := s.dev.csr0.cerr || c } } } :=
        { dev := { csr0 := { cerr := fun h => by simp [h] } } }
      exact hcerr.trans ((txOutcomeStep_agentFrame ..).trans (txReturn_agentFrame ..))
  · exact txReturn_agentFrame ..

theorem devTx_agentFrame (o : TxOutcome) (c : Bool) (s : State) : s.AgentFrame (devTx o c s) := by
  unfold devTx
  dsimp only
  split_ifs with hdma hown
  · exact { dev := { csr0 := { merr := fun _ => rfl } } }
  · exact {}
  · have htdmd : s.AgentFrame { s with dev := { s.dev with csr0 := { s.dev.csr0 with tdmd := false } } } := {}
    exact htdmd.trans (txDescriptor_agentFrame ..)

/-! ### Receive -/

theorem rxFill_agentFrame (f : Frame) (i d : Nat) (s : State) : s.AgentFrame (rxFill f i d s) := by
  unfold rxFill
  dsimp only
  split_ifs with hbuf
  · exact { dev := setMerr_agentFrame _ }
  · exact State.AgentFrame.trans {} (rxComplete_agentFrame ..)

theorem rxFrame_agentFrame (f : Frame) (s : State) : s.AgentFrame (rxFrame f s) := by
  unfold rxFrame
  dsimp only
  split_ifs with hrun haccept hdma hown
  · rfl
  · rfl
  · exact { dev := { csr0 := { merr := fun _ => rfl } } }
  · exact { dev := missedFrame_agentFrame _ }
  · exact rxFill_agentFrame ..

theorem devRx_agentFrame (s : State) : s.AgentFrame (devRx s) := by
  unfold devRx
  split
  · rfl
  · exact State.AgentFrame.trans {} (rxFrame_agentFrame ..)

/-! ### Every agent step -/

theorem takeStep_agentFrame (a : AgentStep) (s : State) : s.AgentFrame (takeStep a s) := by
  cases a with
  | init =>
    dsimp only [takeStep]
    split_ifs with hpending
    · exact devInit_agentFrame s
    · rfl
  | tx o c =>
    dsimp only [takeStep]
    split_ifs with hrun
    · exact devTx_agentFrame o c s
    · rfl
  | rx => exact devRx_agentFrame s
  | frame f =>
    dsimp only [takeStep]
    split_ifs with hempty
    · rfl
    · exact {}
  | platform p => exact {}

theorem agentStep_agentFrame (a : AgentStep) (s : State) : s.AgentFrame (agentStep a s) := by
  rcases agentStep_cases a s with e | ⟨_, _, e⟩ <;> rw [e]
  exact takeStep_agentFrame a s

/-- Settles O37: the `@[simp]` lemmas of `agentStep` give the controller, the parameters and the schedule, and
`agentStep_agentFrame` the rest. -/
theorem agentStepFrame : Obligations.AgentStepFrame := by
  intro s a
  obtain ⟨hdev, hstackIn, htxOut, hfaults⟩ := agentStep_agentFrame a s
  obtain ⟨hrap, hdwio, hcsr1, hcsr2, hswstyle, hmfcom, hatStop, hcsr0, hmfco⟩ := hdev
  obtain ⟨hiena, hbabl, hcerr, hmiss, hmerr, hrint, htint, hidon⟩ := hcsr0
  exact ⟨agentStep_ctl a s, agentStep_cfg a s, agentStep_agenda a s, agentStep_interleave a s, agentStep_result a s,
    agentStep_portAnswers a s, hstackIn, htxOut, hfaults, hrap, hdwio, hcsr1, hcsr2, hswstyle, hiena, hmfcom, hatStop,
    hbabl, hcerr, hmiss, hmerr, hrint, htint, hidon, hmfco⟩

end Sys2Proof.Machine
end

section
/-!
PROOF. Proofs of the statements of 10_state.md, the invariant: what an operation can rely on between two of its steps, and
how a property of its outcome is followed through its boundaries (10_state.md R40 to R48, 44_driver_core.md R310 to
R322).
-/

namespace Sys2Proof.Machine

/-! ### Outcomes without a fault -/

/-- The outcome is no fault, and whatever next state it holds has the property. -/
def Sound (Q : State → Prop) (o : Out) : Prop := Keeps Q o ∧ ∀ f, o ≠ .fault f

theorem sound_next {Q : State → Prop} {s : State} (h : Q s) : Sound Q (.next s) := ⟨keeps_next h, nofun⟩

theorem sound_refused {Q : State → Prop} (r : Refusal) : Sound Q (.refused r) := ⟨keeps_refused r, nofun⟩

theorem sound_whenLive {Q : State → Prop} {s : State} {k : State → Out} (h : s.refusal = none → Sound Q (k s)) :
    Sound Q (whenLive s k) := by
  cases hr : s.refusal with
  | none => rw [whenLive_live hr]; exact h hr
  | some r => rw [whenLive_refused hr]; exact sound_refused _

/-! ### Any property of the outcome, through the pieces of an operation

`Carried` follows a property of states through an operation whose outcome `Keeps` another. Here the outcome may have any
property `G`, so that one walk through an operation serves its next states and its faults alike. -/

/-- `P` is carried, and `G` holds of an operation that a refusal ends at a boundary in a state with `P`. -/
structure Guides (P : State → Prop) (G : Out → Prop) : Prop extends Carried P where
  ends : ∀ t r, P t → t.refusal = some r → G (.next t)

/-- From every live state with `P`, the rest of the operation has an outcome with `G`. -/
def LeadsTo (P : State → Prop) (G : Out → Prop) (k : State → Out) : Prop := ∀ t, P t → t.refusal = none → G (k t)

section Pieces

variable {P : State → Prop} {G : Out → Prop} {s : State}

theorem Guides.boundary (h : Guides P G) (hs : P s) {k : State → Out} (hk : LeadsTo P G k) : G (boundary s k) := by
  rcases boundary_cases s k with ⟨r, hr, e⟩ | ⟨hr, e⟩ <;> rw [e]
  · exact h.ends _ r (h.otherAgents hs) hr
  · exact hk _ (h.otherAgents hs) hr

theorem Guides.ctlRead (h : Guides P G) (hs : P s) (z : BitVec 2) (o : BitVec 5) {k : Word → State → Out}
    (hk : ∀ v, LeadsTo P G (k v)) : G (ctlRead z o s k) :=
  h.boundary (h.portRead hs z o) (hk _)

theorem Guides.ctlWrite (h : Guides P G) (hs : P s) (z : BitVec 2) (o : BitVec 5) (v : Word) {k : State → Out}
    (hk : LeadsTo P G k) : G (ctlWrite z o v s k) :=
  h.boundary (h.portWrite hs z o v) hk

theorem Guides.getCsr (h : Guides P G) (hs : P s) (m : AccessMode) (n : Word) {k : Word → State → Out}
    (hk : ∀ v, LeadsTo P G (k v)) : G (getCsr m n s k) := by
  cases m
  all_goals exact h.ctlWrite hs _ _ _ fun t ht _ => h.ctlRead ht _ _ hk

theorem Guides.setCsr (h : Guides P G) (hs : P s) (m : AccessMode) (n v : Word) {k : State → Out}
    (hk : LeadsTo P G k) : G (setCsr m n v s k) := by
  cases m
  all_goals exact h.ctlWrite hs _ _ _ fun t ht _ => h.ctlWrite ht _ _ _ hk

theorem Guides.setBcr (h : Guides P G) (hs : P s) (m : AccessMode) (n v : Word) {k : State → Out}
    (hk : LeadsTo P G k) : G (setBcr m n v s k) := by
  cases m
  all_goals exact h.ctlWrite hs _ _ _ fun t ht _ => h.ctlWrite ht _ _ _ hk

theorem Guides.resetDevice (h : Guides P G) (hs : P s) (m : AccessMode) {k : State → Out} (hk : LeadsTo P G k) :
    G (resetDevice m s k) := by
  cases m
  all_goals exact h.ctlRead hs _ _ fun _ => hk

theorem Guides.probeRead (h : Guides P G) (hs : P s) (z : BitVec 2) (o : BitVec 5) {k : Word → State → Out}
    (hk : ∀ v, LeadsTo P G (k v)) : G (probeRead z o s k) := by
  unfold Machine.probeRead
  split_ifs
  · exact h.ctlRead hs z o hk
  · exact h.boundary hs (hk _)

theorem Guides.probeWrite (h : Guides P G) (hs : P s) (z : BitVec 2) (o : BitVec 5) (v : Word) {k : State → Out}
    (hk : LeadsTo P G k) : G (probeWrite z o v s k) := by
  unfold Machine.probeWrite
  split_ifs
  · exact h.ctlWrite hs z o v hk
  · exact h.boundary hs hk

theorem Guides.probeWidth (h : Guides P G) (hs : P s) {k : Option AccessMode → State → Out}
    (hk : ∀ m, LeadsTo P G (k m)) : G (probeWidth s k) := by
  unfold Machine.probeWidth
  refine h.probeRead hs _ _ fun _ t ht _ => h.probeWrite ht _ _ _ fun t ht _ =>
    h.probeRead ht _ _ fun v t ht hr => ?_
  split_ifs
  · exact hk _ t ht hr
  · refine h.probeRead ht _ _ fun _ t ht _ => h.probeWrite ht _ _ _ fun t ht _ =>
      h.probeRead ht _ _ fun v t ht hr => ?_
    split_ifs
    · exact hk _ t ht hr
    · exact hk _ t ht hr

theorem Guides.readStation (h : Guides P G) (offs : List (BitVec 5)) (acc : List Byte) (hs : P s)
    (hr : s.refusal = none) {k : List Byte → State → Out} (hk : ∀ bs, LeadsTo P G (k bs)) :
    G (readStation offs acc s k) := by
  induction offs generalizing acc s with
  | nil => exact hk acc s hs hr
  | cons o offs ih => exact h.ctlRead hs _ _ fun v t ht hr => ih _ ht hr

theorem Guides.forSlots (h : Guides P G) {f : Nat → State → State} (first n : Nat)
    (hf : ∀ i t, i < first + n → P t → P (f i t)) (hs : P s) (hr : s.refusal = none) {k : State → Out}
    (hk : LeadsTo P G k) : G (forSlots f first n s k) := by
  induction n generalizing first s with
  | zero => exact hk s hs hr
  | succ n ih =>
    refine h.boundary (hf first s (by omega) hs) fun t ht hr => ?_
    exact ih (first + 1) (fun i t hi => hf i t (by omega)) ht hr

end Pieces

/-! ### The controller's part of the invariant, stage by stage -/

/-- What an invariant says of a live run it says of a refused one, where it asks for less. -/
theorem Ctl.Inv.mono {p : Params} {c : Ctl} (h : c.Inv p false) (b : Bool) : c.Inv p b :=
  ⟨h.rxCur, h.txCur, h.region, h.owned, h.freed, fun ho _ => h.unowned ho rfl⟩

/-- `ATTACH` before it has a region (R311): UNATTACHED, with the claims it has made so far. -/
structure Ctl.Attaching (p : Params) (irq io : Bool) (c : Ctl) : Prop where
  lc : c.lc = .unattached
  rxCur : c.rxCur < rxLen p
  txCur : c.txCur < txLen p
  region : c.region = none
  freed : c.freed = none
  irqRegistered : c.irqRegistered = irq
  ioClaimed : c.ioClaimed = io

/-- The controller holds all it needs to run the device: the region, the access mode, the station address and the
claims, and it has freed no region (R310, R312). -/
structure Ctl.Equipped (p : Params) (c : Ctl) : Prop where
  rxCur : c.rxCur < rxLen p
  txCur : c.txCur < txLen p
  region : ∃ base, c.region = some ⟨base, regionSize p⟩ ∧ regionOk p base = true
  freed : c.freed = none
  accessMode : c.accessMode.isSome
  mac : c.mac.isSome
  ioClaimed : c.ioClaimed = true
  irqRegistered : c.irqRegistered = true

/-- An equipped controller in a state of R310 in which it holds its resources. -/
structure Ctl.Serving (p : Params) (c : Ctl) : Prop extends Ctl.Equipped p c where
  owning : c.lc.owning = true

theorem Ctl.Inv.attaching {p : Params} {c : Ctl} (h : c.Inv p false) (hl : c.lc = .unattached) :
    c.Attaching p false false := by
  obtain ⟨hregion, hio, hirq⟩ := h.unowned (by rw [hl]; rfl) rfl
  refine ⟨hl, h.rxCur, h.txCur, hregion, ?_, hirq, hio⟩
  cases hf : c.freed with
  | none => rfl
  | some r => exact absurd (hl.symm.trans (h.freed r hf).1) (by decide)

/-- A refused run may stop an attach with its claims made (R417). -/
theorem Ctl.Attaching.inv {p : Params} {irq io b : Bool} {c : Ctl} (h : c.Attaching p irq io)
    (hb : b = true ∨ irq = false ∧ io = false) : c.Inv p b where
  rxCur := h.rxCur
  txCur := h.txCur
  region r hr := by rw [h.region] at hr; cases hr
  owned ho := by rw [h.lc] at ho; cases ho
  freed r hr := by rw [h.freed] at hr; cases hr
  unowned _ hlive := by
    rcases hb with rfl | ⟨rfl, rfl⟩
    · cases hlive
    · exact ⟨h.region, h.ioClaimed, h.irqRegistered⟩

theorem Ctl.Attaching.registerIrq {p : Params} {irq io : Bool} {c : Ctl} (h : c.Attaching p irq io) :
    Ctl.Attaching p true io { c with irqRegistered := true } :=
  ⟨h.lc, h.rxCur, h.txCur, h.region, h.freed, rfl, h.ioClaimed⟩

theorem Ctl.Attaching.claimIo {p : Params} {irq io : Bool} {c : Ctl} (h : c.Attaching p irq io) :
    Ctl.Attaching p irq true { c with ioClaimed := true } :=
  ⟨h.lc, h.rxCur, h.txCur, h.region, h.freed, h.irqRegistered, rfl⟩

theorem Ctl.Attaching.dropClaims {p : Params} {irq io : Bool} {c : Ctl} (h : c.Attaching p irq io) :
    Ctl.Attaching p false false { c with ioClaimed := false, irqRegistered := false } :=
  ⟨h.lc, h.rxCur, h.txCur, h.region, h.freed, rfl, rfl⟩

theorem Ctl.Attaching.withAccessMode {p : Params} {irq io : Bool} {c : Ctl} (h : c.Attaching p irq io)
    (m : Option AccessMode) : Ctl.Attaching p irq io { c with accessMode := m } :=
  ⟨h.lc, h.rxCur, h.txCur, h.region, h.freed, h.irqRegistered, h.ioClaimed⟩

theorem Ctl.Attaching.withMac {p : Params} {irq io : Bool} {c : Ctl} (h : c.Attaching p irq io) (mac : BitVec 48) :
    Ctl.Attaching p irq io { c with mac := some mac } :=
  ⟨h.lc, h.rxCur, h.txCur, h.region, h.freed, h.irqRegistered, h.ioClaimed⟩

/-- In a live run the owning states are those in which the handler is registered (R310). -/
theorem Ctl.Inv.owning_of_irqRegistered {p : Params} {c : Ctl} (h : c.Inv p false) (hi : c.irqRegistered = true) :
    c.lc.owning = true := by
  cases ho : c.lc.owning with
  | true => rfl
  | false => rw [(h.unowned ho rfl).2.2] at hi; cases hi

theorem Ctl.Inv.serving {p : Params} {b : Bool} {c : Ctl} (h : c.Inv p b) (ho : c.lc.owning = true) :
    c.Serving p := by
  obtain ⟨hregion, hmode, hmac, hio, hirq⟩ := h.owned ho
  obtain ⟨⟨base, size⟩, hr⟩ := Option.isSome_iff_exists.1 hregion
  obtain ⟨hok, rfl⟩ := h.region _ hr
  refine ⟨⟨h.rxCur, h.txCur, ⟨base, hr, hok⟩, ?_, hmode, hmac, hio, hirq⟩, ho⟩
  cases hf : c.freed with
  | none => rfl
  | some r => rw [(h.freed r hf).1] at ho; cases ho

/-- An equipped controller has the invariant in an owning state, and in any state of a refused run. -/
theorem Ctl.Equipped.inv {p : Params} {b : Bool} {c : Ctl} (h : c.Equipped p) (hb : b = true ∨ c.lc.owning = true) :
    c.Inv p b where
  rxCur := h.rxCur
  txCur := h.txCur
  region r hr := by
    obtain ⟨base, e, hok⟩ := h.region
    cases e.symm.trans hr
    exact ⟨hok, rfl⟩
  owned _ := by
    obtain ⟨base, e, _⟩ := h.region
    exact ⟨by rw [e]; rfl, h.accessMode, h.mac, h.ioClaimed, h.irqRegistered⟩
  freed r hr := by rw [h.freed] at hr; cases hr
  unowned ho hlive := by
    rcases hb with rfl | hb
    · cases hlive
    · rw [hb] at ho; cases ho

theorem Ctl.Serving.inv {p : Params} {c : Ctl} (h : c.Serving p) (b : Bool) : c.Inv p b :=
  h.toEquipped.inv (Or.inr h.owning)

/-- Cursors inside their rings, counters and the lifecycle state are no equipment. -/
theorem Ctl.Equipped.update {p : Params} {c : Ctl} (h : c.Equipped p) (lc : Lifecycle) {rx tx : Nat} (n : Counters)
    (hrx : rx < rxLen p) (htx : tx < txLen p) :
    Ctl.Equipped p { c with lc := lc, rxCur := rx, txCur := tx, counters := n } :=
  ⟨hrx, htx, h.region, h.freed, h.accessMode, h.mac, h.ioClaimed, h.irqRegistered⟩

theorem Ctl.Serving.update {p : Params} {c : Ctl} (h : c.Serving p) {rx tx : Nat} (n : Counters)
    (hrx : rx < rxLen p) (htx : tx < txLen p) :
    Ctl.Serving p { c with rxCur := rx, txCur := tx, counters := n } :=
  ⟨h.toEquipped.update c.lc n hrx htx, h.owning⟩

/-- A controller that has given its resources back has the invariant: its region is the freed one (R322). -/
theorem giveBack_ctl_inv {p : Params} {s : State} (h : s.ctl.Equipped p) (b : Bool) : (giveBack s).ctl.Inv p b where
  rxCur := h.rxCur
  txCur := h.txCur
  region r hr := by cases hr
  owned ho := by cases ho
  freed r hr := ⟨rfl, (h.inv (Or.inl rfl)).region r hr⟩
  unowned _ _ := ⟨rfl, rfl, rfl⟩

/-- The region lies below the top of memory (R312). -/
theorem regionOk_inside {p : Params} {base : Nat} (h : regionOk p base = true) : base + regionSize p ≤ memoryTop := by
  simp only [regionOk, Bool.and_eq_true] at h
  exact dmaOk_top h.2

/-! ### A descriptor's bytes, in canonical form and inside memory -/

theorem putDesc_keeps_wf {d : Nat} {ba : Word} {bc st : Half} {m : Memory} (h : Memory.wf m = true) :
    Memory.wf (putDesc d ba bc st m) = true := by
  unfold putDesc
  iterate 5 apply writeBytes_keeps_wf
  exact h

theorem putDesc_bounded {d : Nat} {ba : Word} {bc st : Half} {m : Memory} (h : m.Bounded) (hd : d + 16 ≤ memoryTop) :
    Memory.Bounded (putDesc d ba bc st m) := by
  unfold putDesc
  iterate 5 refine writeBytes_bounded ?_ (Or.inr (by simp only [wordBytes_length, halfBytes_length]; omega))
  exact h

/-! ### A stage of an operation -/

/-- What an operation can rely on between two of its steps: the part of the invariant that every agent keeps, the
parameters, and what it knows of the controller, which no other agent touches. -/
structure Stage (p : Params) (C : Ctl → Prop) (s : State) : Prop where
  grounded : s.Grounded
  cfg : s.cfg = p
  ctl : C s.ctl

theorem State.Inv.grounded {s : State} (h : s.Inv) : s.Grounded := ⟨h.memory, h.addresses, h.dev, h.env⟩

theorem State.Inv.stage {s : State} (h : s.Inv) (hr : s.refusal = none) : Stage s.cfg (Ctl.Inv s.cfg false) s :=
  ⟨h.grounded, rfl, by simpa [hr] using h.ctl⟩

/-- Replacing the controller leaves what the other agents keep. -/
theorem withCtl_grounded {s : State} (h : s.Grounded) (c : Ctl) : State.Grounded { s with ctl := c } :=
  ⟨h.memory, h.addresses, h.dev, h.env⟩

section Stages

variable {p : Params} {C C' : Ctl → Prop} {s : State}

theorem carried_stage : Carried (Stage p C) where
  agent a _ h := ⟨agentStep_grounded h.grounded a, by simpa using h.cfg, by simpa using h.ctl⟩
  port i _ h := ⟨portRow_grounded i h.grounded, by simpa using h.cfg, by simpa using h.ctl⟩
  answer s r h := ⟨carried_grounded.answer s r h.grounded, h.cfg, h.ctl⟩
  pop s l h := ⟨carried_grounded.pop s l h.grounded, h.cfg, h.ctl⟩

/-- The controller moves on to the next stage. -/
theorem Stage.withCtl (h : Stage p C s) {c : Ctl} (hc : C' c) : Stage p C' { s with ctl := c } :=
  ⟨withCtl_grounded h.grounded c, h.cfg, hc⟩

/-- Memory changes inside the address space. -/
theorem Stage.withMem (h : Stage p C s) {m : Memory} (hwf : Memory.wf m = true) (hb : m.Bounded) :
    Stage p C { s with mem := m } :=
  ⟨⟨hwf, hb, h.grounded.dev, h.grounded.env⟩, h.cfg, h.ctl⟩

theorem Stage.mono (h : Stage p C s) (hC : ∀ c, C c → C' c) : Stage p C' s := ⟨h.grounded, h.cfg, hC _ h.ctl⟩

theorem Stage.inv (h : Stage p C s) (hc : s.ctl.Inv p s.refusal.isSome) : s.Inv :=
  ⟨h.grounded.memory, h.grounded.addresses, h.grounded.dev, h.grounded.env, by rw [h.cfg]; exact hc⟩

theorem guides_stage (hC : ∀ c, C c → c.Inv p true) : Guides (Stage p C) (Sound State.Inv) where
  toCarried := carried_stage
  ends t r ht hr := sound_next (ht.inv (by rw [hr]; exact hC _ ht.ctl))

theorem guides_attaching {irq io : Bool} : Guides (Stage p (Ctl.Attaching p irq io)) (Sound State.Inv) :=
  guides_stage fun _ h => h.inv (Or.inl rfl)

theorem guides_equipped : Guides (Stage p (Ctl.Equipped p)) (Sound State.Inv) :=
  guides_stage fun _ h => h.inv (Or.inl rfl)

theorem guides_serving : Guides (Stage p (Ctl.Serving p)) (Sound State.Inv) := guides_stage fun _ h => h.inv true

/-- A request that ends in a live run with the invariant of the controller. -/
theorem Stage.finish_sound (h : Stage p (Ctl.Inv p false) s) (r : Result) : Sound State.Inv (finish r s) :=
  sound_next (Stage.inv (s := { s with result := r }) (p := p) (C := Ctl.Inv p false)
    ⟨⟨h.grounded.memory, h.grounded.addresses, h.grounded.dev, h.grounded.env⟩, h.cfg, h.ctl⟩ (h.ctl.mono _))

/-! ### The rings -/

theorem Stage.rxArm (h : Stage p C s) {base i : Nat} (hi : i < rxLen p) (hb : base + regionSize p ≤ memoryTop) :
    Stage p C (rxArm base i s) :=
  ⟨rxArm_grounded h.grounded (rxDesc_inside hi hb), by simpa using h.cfg, by simpa using h.ctl⟩

theorem Stage.txInit (h : Stage p C s) {base i : Nat} (hi : i < txLen p) (hb : base + regionSize p ≤ memoryTop) :
    Stage p C (txInit base i s) :=
  ⟨txInit_grounded h.grounded (by rw [h.cfg]; exact txDesc_inside hi hb), by simpa using h.cfg, by simpa using h.ctl⟩

/-- The set-up of both rings arms and empties slots of the region only, and leaves the cursors at 0 (R290, R314). -/
theorem Guides.setUpRings {G : Out → Prop} (h : Guides (Stage p (Ctl.Equipped p)) G)
    (hs : Stage p (Ctl.Equipped p) s) (hr : s.refusal = none) {base : Nat} (hb : base + regionSize p ≤ memoryTop)
    {k : State → Out} (hk : LeadsTo (Stage p (Ctl.Equipped p)) G k) : G (setUpRings base s k) := by
  unfold Machine.setUpRings
  refine h.forSlots 0 _ (fun i t hi ht => ht.rxArm (by rw [hs.cfg] at hi; omega) hb) hs hr fun t ht hr => ?_
  refine h.forSlots 0 _ (fun i u hi hu => hu.txInit (by rw [ht.cfg] at hi; omega) hb) ht hr fun u hu hr => ?_
  exact hk _ (hu.withCtl (hu.ctl.update u.ctl.lc u.ctl.counters (rxLen_pos p) (txLen_pos p))) hr

/-- `writeInitBlock()` stays inside the region (R292). -/
theorem Stage.writeInitBlock (h : Stage p C s) {base : Nat} (hb : base + regionSize p ≤ memoryTop) (mac : BitVec 48) :
    Stage p C (writeInitBlock base mac s) := by
  have hblock : 32 ≤ regionSize p := by
    simp only [regionSize, initBlockSize]
    omega
  unfold Machine.writeInitBlock
  refine h.withMem (writeBytes_keeps_wf _ _ _ h.grounded.memory) (writeBytes_bounded h.grounded.addresses (Or.inr ?_))
  rw [initBlockBytes_length]
  omega

/-! ### Receive and transmit -/

/-- A take re-arms a slot of the region and moves the cursor inside its ring (R256). -/
theorem Stage.takeNext (h : Stage p (Ctl.Serving p) s) {base : Nat} (hb : base + regionSize p ≤ memoryTop) :
    Stage p (Ctl.Serving p) (takeNext base s).2 := by
  rcases takeNext_cases base s with ⟨_, e⟩ | ⟨hown, e⟩ <;> rw [e]
  · exact h
  · have harm := h.rxArm h.ctl.rxCur hb
    rw [rxArm_allowed (Or.inr hown)] at harm
    refine harm.withCtl ?_
    rw [h.cfg]
    exact h.ctl.update _ (Nat.mod_lt _ (rxLen_pos p)) h.ctl.txCur

/-- A packet that is taken fits the buffer it was in (R256). -/
theorem takeNext_packet {base : Nat} {b : List Byte} (h : (takeNext base s).1 = .packet b) :
    1 ≤ b.length ∧ b.length ≤ s.cfg.bufferSize := by
  rcases takeNext_cases base s with ⟨_, e⟩ | ⟨_, e⟩ <;> rw [e] at h
  · cases h
  · rcases takeSlot_cases s.cfg s.mem (rxBufAddr s.cfg base s.ctl.rxCur) (read16 s.mem (rxDescAddr base s.ctl.rxCur))
      (read16 s.mem (rxDescAddr base s.ctl.rxCur + 2)) s.ctl.counters with ⟨n, hn, h1, h2, _⟩ | hd
    · cases hn.symm.trans h
      rw [readBytes_length]
      exact ⟨h1, h2⟩
    · cases hd.symm.trans h

/-- A serving controller finds its region, inside memory (R42). -/
theorem Stage.withRegion {G : Out → Prop} (h : Stage p (Ctl.Serving p) s) {k : Nat → Out}
    (hk : ∀ base, base + regionSize p ≤ memoryTop → G (k base)) : G (withRegion s k) := by
  obtain ⟨base, e, hok⟩ := h.ctl.region
  have hb := regionOk_inside hok
  unfold Machine.withRegion
  simp only [e, h.cfg]
  rw [if_pos hb]
  exact hk base hb

/-- A serving controller finds its access mode (R40). -/
theorem Stage.withAccessMode {G : Out → Prop} (h : Stage p (Ctl.Serving p) s) {k : AccessMode → Out}
    (hk : ∀ m, G (k m)) : G (withAccessMode s k) := by
  obtain ⟨m, e⟩ := Option.isSome_iff_exists.1 h.ctl.accessMode
  unfold Machine.withAccessMode
  simp only [e]
  exact hk m

/-- `RECEIVE()` of a serving controller: it goes on from a serving controller, and a packet fits its buffer (R256). -/
theorem Stage.receiveStep {G : Out → Prop} (h : Stage p (Ctl.Serving p) s) (hr : s.refusal = none)
    {k : RxTake → State → Out}
    (hk : ∀ r, (∀ b, r = .packet b → 1 ≤ b.length ∧ b.length ≤ p.bufferSize) →
      LeadsTo (Stage p (Ctl.Serving p)) G (k r)) : G (receiveStep s k) := by
  unfold Machine.receiveStep
  split_ifs
  · refine h.withRegion fun base hb => hk _ (fun b e => ?_) _ (h.takeNext hb) (by simpa using hr)
    rw [← h.cfg]
    exact takeNext_packet e
  · exact hk .badState nofun s h hr

theorem Stage.onReceive (h : Stage p C s) {b : List Byte} (hb : 1 ≤ b.length ∧ b.length ≤ p.bufferSize) :
    Stage p C (onReceive b s) := by
  refine ⟨⟨h.grounded.memory, h.grounded.addresses, h.grounded.dev, h.grounded.env.arriving, h.grounded.env.sent, ?_⟩,
    h.cfg, h.ctl⟩
  intro f hf
  rcases List.mem_append.1 hf with hf | hf
  · exact h.grounded.env.delivered f hf
  · rw [List.mem_singleton.1 hf, onReceive_cfg, h.cfg]
    exact hb

theorem Guides.drainLoop {G : Out → Prop} (h : Guides (Stage p (Ctl.Serving p)) G) (fuel : Nat)
    (hs : Stage p (Ctl.Serving p) s) (hr : s.refusal = none) {k : State → Out}
    (hk : LeadsTo (Stage p (Ctl.Serving p)) G k) : G (drainLoop fuel s k) := by
  induction fuel generalizing s with
  | zero => exact hk s hs hr
  | succ fuel ih =>
    refine hs.receiveStep hr fun r hfits t ht hr => ?_
    cases r with
    | packet b => exact h.boundary (ht.onReceive (hfits b rfl)) fun u hu hr => ih hu hr
    | dropped => exact h.boundary ht fun u hu hr => ih hu hr
    | empty => exact hk t ht hr
    | badState => exact hk t ht hr

/-- The stores of a post stay in the slot's buffer and descriptor (R258). -/
theorem Stage.txPost (h : Stage p (Ctl.Serving p) s) {base : Nat} (hb : base + regionSize p ≤ memoryTop)
    {b : List Byte} (hlen : b.length ≤ p.bufferSize) : Stage p (Ctl.Serving p) (txPost base b s).2 := by
  obtain rfl := h.cfg
  cases hown : deviceOwns s.mem (txDescAddr s.cfg base s.ctl.txCur) with
  | true =>
    rw [txPost_full hown]
    exact h.withCtl (h.ctl.update _ h.ctl.rxCur h.ctl.txCur)
  | false =>
    have hd := txDesc_inside h.ctl.txCur hb
    have hbuf := txBuf_end h.ctl.txCur base
    have hapart : txDescAddr s.cfg base s.ctl.txCur + 16 ≤ txBufAddr s.cfg base s.ctl.txCur :=
      calc txDescAddr s.cfg base s.ctl.txCur + 16
        _ ≤ base + rxBufOff s.cfg := txDesc_end h.ctl.txCur base
        _ ≤ base + txBufOff s.cfg := Nat.add_le_add_left (rxBuf_le_txBuf s.cfg) base
        _ ≤ txBufAddr s.cfg base s.ctl.txCur := txBuf_start ..
    rw [txPost_allowed hown _ hapart]
    refine (h.withMem (putDesc_keeps_wf (writeBytes_keeps_wf _ _ _ h.grounded.memory)) ?_).withCtl
      (h.ctl.update _ h.ctl.rxCur (Nat.mod_lt _ (txLen_pos _)))
    exact putDesc_bounded (writeBytes_bounded h.grounded.addresses (Or.inr (by omega))) hd

end Stages

end Sys2Proof.Machine
end

section
/-!
PROOF. Proofs of the statements of 10_state.md: every step keeps the invariant of the machine and answers no fault
(O56, O59), operation by operation.
-/

namespace Sys2Proof.Machine

/-! ### Port requests -/

/-- A port request leaves the state as it was, or does its row's action, and gives an answer (R126, R173). -/
theorem exec_port_cases {i : Instr} (hi : (encode i).fmt = .pio) {s : State} (hr : s.refusal = none) :
    ∃ r, exec i s = .next { s with result := r } ∨ exec i s = .next { (portRow i s).2 with result := r } := by
  have hread (m : RowMode) (n : Nat) (v : Word) (t : State) :
      ∃ r, readMeaning m n v t s = .next { s with result := r } ∨
        readMeaning m n v t s = .next { t with result := r } := by
    cases hm : modeAdmits m s.dev.dwio with
    | true => exact ⟨_, Or.inr (readMeaning_in_mode hr hm n v t)⟩
    | false => exact ⟨_, Or.inl (readMeaning_other_mode hr hm n v t)⟩
  have hwrite (m : RowMode) (t : State) :
      ∃ r, writeMeaning m t s = .next { s with result := r } ∨ writeMeaning m t s = .next { t with result := r } := by
    cases hm : modeAdmits m s.dev.dwio with
    | true => exact ⟨_, Or.inr (writeMeaning_in_mode hr hm t)⟩
    | false => exact ⟨_, Or.inl (writeMeaning_other_mode hr hm t)⟩
  cases i
  case attach | initializeOp | isr | transmit | receive | disable | release => cases hi
  case dwioEnter | rdpWw | rapWw | bdpWw | rdpWd | rapWd | bdpWd => exact hwrite _ _
  all_goals exact hread _ _ _ _

/-! ### What a request and a step can do -/

/-- A request is executed, answered as an undecoded one, marks the run refused, or is no request at all. -/
theorem runRequest_cases (r : Request) (s : State) :
    (∃ i, runRequest r s = exec i s) ∨ (∃ x, runRequest r s = finish x s) ∨
    (∃ x, runRequest r s = .next (refuse x s)) ∨ ∃ x, runRequest r s = .refused x := by
  unfold runRequest
  split
  · exact Or.inl ⟨_, rfl⟩
  · rename_i e _
    cases e with
    | malformed => exact Or.inr (Or.inr (Or.inr ⟨_, rfl⟩))
    | undecoded w => exact Or.inr (Or.inl ⟨_, rfl⟩)
    | reservedOp => exact Or.inr (Or.inr (Or.inl ⟨_, rfl⟩))

/-- A step of a live run idles, or takes its next event out of the schedule: an agent step or a request. -/
theorem step_cases {s : State} (hr : s.refusal = none) :
    step s = .next s ∨ (∃ a l, step s = .next (agentStep a { s with agenda := l })) ∨
    ∃ r l, step s = runRequest r { s with agenda := l } := by
  unfold step
  rw [whenLive_live hr]
  cases e : s.agenda with
  | nil => simp [nextEvent, e]
  | cons event l =>
    cases event with
    | agent a =>
      refine Or.inr (Or.inl ⟨a, l, ?_⟩)
      simp only [nextEvent, e]
    | request r =>
      refine Or.inr (Or.inr ⟨r, l, ?_⟩)
      simp only [nextEvent, e]

section Operations

variable {s : State}

/-- The invariant does not look at the result. -/
theorem State.Inv.withResult (h : s.Inv) (r : Result) : State.Inv { s with result := r } :=
  ⟨h.memory, h.addresses, h.dev, h.env, h.ctl⟩

theorem State.Inv.finish_sound (h : s.Inv) (r : Result) : Sound State.Inv (finish r s) := sound_next (h.withResult r)

theorem portRow_inv (h : s.Inv) (i : Instr) : (portRow i s).2.Inv :=
  ⟨by simpa using h.memory, by simpa using h.addresses, portRow_dev_inv i h.dev, by simpa using h.env,
    by simpa using h.ctl⟩

theorem exec_port_sound (h : s.Inv) (hr : s.refusal = none) {i : Instr} (hi : (encode i).fmt = .pio) :
    Sound State.Inv (exec i s) := by
  obtain ⟨r, e | e⟩ := exec_port_cases hi hr <;> rw [e]
  · exact sound_next (h.withResult r)
  · exact sound_next ((portRow_inv h i).withResult r)

/-! ### Operations that are legal in owning states only (R310) -/

/-- An operation that is legal in owning states only starts from a serving controller (R310). -/
theorem State.Inv.serving (h : s.Inv) (ho : s.ctl.lc.owning = true) : Stage s.cfg (Ctl.Serving s.cfg) s :=
  ⟨h.grounded, rfl, h.ctl.serving ho⟩

theorem owning_of_initializes {l : Lifecycle} (h : initializes l = true) : l.owning = true := by
  cases l <;> cases h <;> rfl

theorem owning_of_transmits {l : Lifecycle} (h : transmits l = true) : l.owning = true := by
  cases l <;> cases h <;> rfl

theorem owning_of_receives {l : Lifecycle} (h : receives l = true) : l.owning = true := by
  cases l <;> cases h <;> rfl

theorem owning_of_disables {l : Lifecycle} (h : disables l = true) : l.owning = true := by
  cases l <;> cases h <;> rfl

theorem owning_of_releases {l : Lifecycle} (h : releases l = true) : l.owning = true := by
  cases l <;> cases h <;> rfl

/-! ### Attach -/

variable {p : Params}

theorem attachRegion_sound (hs : Stage p (Ctl.Attaching p true true) s)
    (hm : s.ctl.accessMode.isSome) (hmac : s.ctl.mac.isSome) (base : Nat) (mac : BitVec 48) :
    Sound State.Inv (attachRegion base mac s) := by
  obtain rfl := hs.cfg
  unfold attachRegion
  split_ifs with hok
  · have hb := regionOk_inside hok
    have hequipped : Ctl.Equipped s.cfg
        { s.ctl with region := some ⟨base, regionSize s.cfg⟩, counters := Counters.zero } :=
      ⟨hs.ctl.rxCur, hs.ctl.txCur, ⟨base, rfl, hok⟩, hs.ctl.freed, hm, hmac, hs.ctl.ioClaimed, hs.ctl.irqRegistered⟩
    refine guides_equipped.boundary (hs.withCtl hequipped) fun t ht hr => ?_
    refine guides_equipped.boundary (ht.writeInitBlock hb mac) fun t ht hr => ?_
    refine guides_equipped.setUpRings ht hr hb fun t ht hr => ?_
    exact (ht.withCtl ((ht.ctl.update .attached _ ht.ctl.rxCur ht.ctl.txCur).inv (Or.inr rfl))).finish_sound .ok
  · exact sound_next
      (Stage.inv (C := Ctl.Attaching s.cfg true true) ⟨refuse_grounded hs.grounded _, rfl, hs.ctl⟩
        (hs.ctl.inv (Or.inl rfl)))

/-- A failed attach has dropped its claims (R311). -/
theorem dropClaims_finish_sound {irq io : Bool} (hs : Stage p (Ctl.Attaching p irq io) s) (r : Result) :
    Sound State.Inv (finish r (dropClaims s)) :=
  (hs.withCtl (hs.ctl.dropClaims.inv (Or.inr ⟨rfl, rfl⟩))).finish_sound r

theorem attachStation_sound (hs : Stage p (Ctl.Attaching p true true) s) (hr : s.refusal = none) (m : AccessMode) :
    Sound State.Inv (attachStation m s) := by
  have hguides : Guides (Stage p fun c => c.Attaching p true true ∧ c.accessMode.isSome) (Sound State.Inv) :=
    guides_stage fun _ h => h.1.inv (Or.inl rfl)
  unfold attachStation
  refine hguides.readStation _ _ (hs.withCtl ⟨hs.ctl.withAccessMode (some m), rfl⟩) hr fun bs t ht hr => ?_
  obtain ⟨hattaching, hmode⟩ := ht.ctl
  have hmac := ht.withCtl (hattaching.withMac (macOf bs))
  dsimp only
  split
  · exact dropClaims_finish_sound hmac _
  · exact attachRegion_sound hmac hmode rfl _ _

theorem attachSteps_sound (hs : Stage p (Ctl.Attaching p false false) s) :
    Sound State.Inv (attachSteps s) := by
  have hunclaimed (t : State) (ht : Stage p (Ctl.Attaching p false false) t) : Stage p (Ctl.Inv p false) t :=
    ht.mono fun _ h => h.inv (Or.inr ⟨rfl, rfl⟩)
  unfold attachSteps
  split_ifs
  · exact (hunclaimed s hs).finish_sound _
  · refine guides_attaching.boundary hs fun t ht hr => ?_
    split_ifs
    · exact (hunclaimed t ht).finish_sound _
    · refine guides_attaching.boundary (ht.withCtl ht.ctl.registerIrq) fun t ht hr => ?_
      split_ifs
      · exact dropClaims_finish_sound ht _
      · refine guides_attaching.boundary (ht.withCtl ht.ctl.claimIo) fun t ht hr => ?_
        refine guides_attaching.probeWidth ht fun m t ht hr => ?_
        cases m with
        | none => exact dropClaims_finish_sound ht _
        | some m => exact attachStation_sound ht hr m

theorem execAttach_sound (h : s.Inv) : Sound State.Inv (execAttach s) := by
  refine sound_whenLive fun hr => ?_
  split_ifs with hl
  · exact attachSteps_sound ((h.stage hr).withCtl ((h.stage hr).ctl.attaching hl))
  · exact h.finish_sound _

/-! ### Initialize -/

theorem initializeSteps_sound (hs : Stage p (Ctl.Equipped p) s) (m : AccessMode) {base : Nat}
    (hb : base + regionSize p ≤ memoryTop) : Sound State.Inv (initializeSteps m base s) := by
  unfold initializeSteps
  refine guides_equipped.resetDevice hs m fun t ht hr => ?_
  refine guides_equipped.setUpRings ht hr hb fun t ht hr => ?_
  refine guides_equipped.setBcr ht m _ _ fun t ht hr => ?_
  refine guides_equipped.setCsr ht m _ _ fun t ht hr => ?_
  refine guides_equipped.setCsr ht m _ _ fun t ht hr => ?_
  refine guides_equipped.setCsr ht m _ _ fun t ht hr => ?_
  exact (ht.withCtl ((ht.ctl.update .initializing _ ht.ctl.rxCur ht.ctl.txCur).inv (Or.inr rfl))).finish_sound .ok

theorem execInitialize_sound (h : s.Inv) : Sound State.Inv (execInitialize s) := by
  refine sound_whenLive fun hr => ?_
  split_ifs with hl
  · have hs := h.serving (owning_of_initializes hl)
    exact hs.withAccessMode fun m => hs.withRegion fun base hb =>
      initializeSteps_sound (hs.mono fun _ h => h.toEquipped) m hb
  · exact h.finish_sound _

/-! ### Interrupt service -/

theorem serviceIdon_sound (hs : Stage p (Ctl.Serving p) s) (hr : s.refusal = none) (m : AccessMode) (v0 : Word)
    {k : State → Out} (hk : LeadsTo (Stage p (Ctl.Serving p)) (Sound State.Inv) k) :
    Sound State.Inv (serviceIdon m v0 s k) := by
  unfold serviceIdon
  split_ifs
  · refine guides_serving.setCsr hs m _ _ fun t ht hr => hk _ (ht.withCtl ?_) hr
    exact ⟨ht.ctl.toEquipped.update .running _ ht.ctl.rxCur ht.ctl.txCur, rfl⟩
  · exact hk s hs hr

theorem serviceRint_sound (hs : Stage p (Ctl.Serving p) s) (hr : s.refusal = none) (v0 : Word)
    {k : State → Out} (hk : LeadsTo (Stage p (Ctl.Serving p)) (Sound State.Inv) k) :
    Sound State.Inv (serviceRint v0 s k) := by
  unfold serviceRint
  split_ifs
  · exact guides_serving.drainLoop _ hs hr hk
  · exact hk s hs hr

theorem isrSteps_sound (hs : Stage p (Ctl.Serving p) s) (m : AccessMode) : Sound State.Inv (isrSteps m s) := by
  unfold isrSteps
  refine guides_serving.getCsr hs m _ fun v0 t ht hr => ?_
  refine guides_serving.setCsr ht m _ _ fun t ht hr => ?_
  refine guides_serving.getCsr ht m _ fun v4 t ht hr => ?_
  refine guides_serving.setCsr ht m _ _ fun t ht hr => ?_
  refine serviceIdon_sound ht hr m v0 fun t ht hr => ?_
  refine serviceRint_sound ht hr v0 fun t ht hr => ?_
  exact (ht.withCtl ((ht.ctl.update _ ht.ctl.rxCur ht.ctl.txCur).inv false)).finish_sound .serviced

theorem execIsr_sound (h : s.Inv) : Sound State.Inv (execIsr s) := by
  refine sound_whenLive fun hr => ?_
  split_ifs with hirq
  · have hs := h.serving ((h.stage hr).ctl.owning_of_irqRegistered hirq)
    exact hs.withAccessMode fun m => isrSteps_sound hs m
  · exact h.finish_sound _

/-! ### Transmit and receive -/

theorem Stage.serving_finish_sound (h : Stage p (Ctl.Serving p) s) (r : Result) : Sound State.Inv (finish r s) :=
  (h.mono fun _ hc => hc.inv false).finish_sound r

theorem execTransmit_sound (h : s.Inv) (b : List Byte) : Sound State.Inv (execTransmit b s) := by
  refine sound_whenLive fun hr => ?_
  split_ifs with hl hlen
  · have hs := h.serving (owning_of_transmits hl)
    refine hs.withAccessMode fun m => hs.withRegion fun base hb => ?_
    have hpost := hs.txPost hb hlen.2
    dsimp only
    split_ifs
    · refine guides_serving.boundary hpost fun t ht hr => ?_
      exact guides_serving.setCsr ht m _ _ fun t ht hr => ht.serving_finish_sound _
    · exact hpost.serving_finish_sound _
  · have hs := h.serving (owning_of_transmits hl)
    exact (hs.withCtl (C' := Ctl.Serving s.cfg) (hs.ctl.update _ hs.ctl.rxCur hs.ctl.txCur)).serving_finish_sound _
  · exact h.finish_sound _

theorem execReceive_sound (h : s.Inv) : Sound State.Inv (execReceive s) := by
  refine sound_whenLive fun hr => ?_
  cases hl : receives s.ctl.lc with
  | true => exact (h.serving (owning_of_receives hl)).receiveStep hr fun r _ t ht _ => ht.serving_finish_sound _
  | false =>
    unfold receiveStep
    rw [hl]
    exact h.finish_sound _

/-! ### Disable and release -/

theorem disableSteps_sound (hs : Stage p (Ctl.Serving p) s) (hr : s.refusal = none) {k : State → Out}
    (hk : LeadsTo (Stage p (Ctl.Serving p)) (Sound State.Inv) k) : Sound State.Inv (disableSteps s k) := by
  unfold disableSteps
  split_ifs
  · refine hs.withAccessMode fun m => guides_serving.setCsr hs m _ _ fun t ht hr => hk _ (ht.withCtl ?_) hr
    exact ⟨ht.ctl.toEquipped.update .disabled _ ht.ctl.rxCur ht.ctl.txCur, rfl⟩
  · exact hk s hs hr

theorem execDisable_sound (h : s.Inv) : Sound State.Inv (execDisable s) := by
  refine sound_whenLive fun hr => ?_
  cases hl : disables s.ctl.lc with
  | true => exact disableSteps_sound (h.serving (owning_of_disables hl)) hr fun t ht _ => ht.serving_finish_sound _
  | false =>
    unfold disableSteps
    rw [hl]
    exact h.finish_sound _

theorem execRelease_sound (h : s.Inv) : Sound State.Inv (execRelease s) := by
  refine sound_whenLive fun hr => ?_
  split_ifs with hl
  · refine disableSteps_sound (h.serving (owning_of_releases hl)) hr fun t ht _ => ?_
    exact (ht.withCtl (giveBack_ctl_inv ht.ctl.toEquipped false)).finish_sound _
  · exact h.finish_sound _

/-! ### Every step -/

theorem exec_sound (h : s.Inv) (hr : s.refusal = none) (i : Instr) : Sound State.Inv (exec i s) := by
  cases i
  case attach => exact execAttach_sound h
  case initializeOp => exact execInitialize_sound h
  case isr => exact execIsr_sound h
  case transmit b => exact execTransmit_sound h b
  case receive => exact execReceive_sound h
  case disable => exact execDisable_sound h
  case release => exact execRelease_sound h
  all_goals exact exec_port_sound h hr rfl

theorem refuse_inv (h : s.Inv) (hr : s.refusal = none) (r : RefuseReason) : (refuse r s).Inv :=
  Stage.inv (C := Ctl.Inv s.cfg false) ⟨refuse_grounded h.grounded r, rfl, (h.stage hr).ctl⟩
    ((h.stage hr).ctl.mono true)

theorem runRequest_sound (h : s.Inv) (hr : s.refusal = none) (r : Request) : Sound State.Inv (runRequest r s) := by
  obtain ⟨i, e⟩ | ⟨x, e⟩ | ⟨x, e⟩ | ⟨x, e⟩ := runRequest_cases r s <;> rw [e]
  · exact exec_sound h hr i
  · exact h.finish_sound x
  · exact sound_next (refuse_inv h hr x)
  · exact sound_refused x

theorem agentStep_inv (h : s.Inv) (hr : s.refusal = none) (a : AgentStep) : (agentStep a s).Inv := by
  have ht := carried_stage.agent a s (h.stage hr)
  exact ht.inv (ht.ctl.mono _)

theorem step_sound (h : s.Inv) : Sound State.Inv (step s) := by
  cases hr : s.refusal with
  | some r =>
    unfold step
    rw [whenLive_refused hr]
    exact sound_refused _
  | none =>
    have hrest (l : List Event) : State.Inv { s with agenda := l } := ⟨h.memory, h.addresses, h.dev, h.env, h.ctl⟩
    obtain e | ⟨a, l, e⟩ | ⟨r, l, e⟩ := step_cases hr <;> rw [e]
    · exact sound_next h
    · exact sound_next (agentStep_inv (hrest l) hr a)
    · exact runRequest_sound (hrest l) hr r

end Operations

/-- Settles O56: every operation goes from stage to stage (`Stage`), each of which other agents keep, and ends with the
invariant. -/
theorem stepKeepsTheInvariant : Obligations.StepKeepsTheInvariant := fun _ t h e => (step_sound h).1 t e

/-- Settles O59, with the same walk: where an operation reaches for its access mode or its region, the controller is
serving and has both. -/
theorem noStepFaults : Obligations.NoStepFaults := fun _ f h => (step_sound h).2 f

end Sys2Proof.Machine
end

section
/-!
PROOF. Proofs of the statements of 10_state.md: a STOPPED device is quiet (O36), and what no step takes back (O60).
-/

namespace Sys2Proof.Machine

/-! ### A STOPPED device (R34, R99) -/

/-- A frame that a STOPPED device takes from the wire is discarded (R370). -/
theorem rxFrame_stopped (f : Frame) {s : State} (hs : s.dev.devState = .stopped) : rxFrame f s = s := by
  simp [rxFrame, hs]

/-- On a STOPPED device an agent step changes the environment at most, and not what was sent. -/
theorem takeStep_stopped (a : AgentStep) {s : State} (hs : s.dev.devState = .stopped) :
    ∃ e, takeStep a s = { s with env := e } ∧ e.txOut = s.env.txOut := by
  cases a with
  | init => exact ⟨s.env, if_neg (by simp [hs]), rfl⟩
  | tx o c => exact ⟨s.env, if_neg (by simp [hs]), rfl⟩
  | rx =>
    simp only [takeStep, devRx]
    split
    · exact ⟨s.env, rfl, rfl⟩
    · exact ⟨_, rxFrame_stopped _ hs, rfl⟩
  | frame f =>
    dsimp only [takeStep]
    split_ifs
    · exact ⟨s.env, rfl, rfl⟩
    · exact ⟨_, rfl, rfl⟩
  | platform p => exact ⟨_, rfl, rfl⟩

theorem agentStep_stopped (a : AgentStep) {s : State} (hs : s.dev.devState = .stopped) :
    ∃ e, agentStep a s = { s with env := e } ∧ e.txOut = s.env.txOut := by
  rcases agentStep_cases a s with e | ⟨_, _, e⟩ <;> rw [e]
  · exact ⟨s.env, rfl, rfl⟩
  · exact takeStep_stopped a hs

theorem agentSteps_stopped (as : List AgentStep) {s : State} (hs : s.dev.devState = .stopped) :
    ∃ e, agentSteps as s = { s with env := e } ∧ e.txOut = s.env.txOut := by
  induction as generalizing s with
  | nil => exact ⟨s.env, rfl, rfl⟩
  | cons a as ih =>
    obtain ⟨e, h, hsent⟩ := agentStep_stopped a hs
    obtain ⟨e', h', hsent'⟩ := ih (s := { s with env := e }) hs
    exact ⟨e', by rw [agentSteps, h, h'], hsent'.trans hsent⟩

/-- Settles O36: agent steps on a STOPPED device change the environment only, step by step (`agentSteps_stopped`). -/
theorem stoppedDeviceIsQuiet : Obligations.StoppedDeviceIsQuiet := by
  intro s as hs
  obtain ⟨e, h, hsent⟩ := agentSteps_stopped as hs
  rw [h]
  exact ⟨rfl, rfl, hsent, rfl⟩

/-! ### Properties that a step keeps when its instruction does -/

/-- The property does not look at what a step notes down: the refusal, the events still to come and the result. -/
def IgnoresNotes (P : State → Prop) : Prop :=
  ∀ s x l r, P s → P { s with refusal := x, agenda := l, result := r }

section Notes

variable {P : State → Prop} {s : State}

theorem IgnoresNotes.finish (h : IgnoresNotes P) (hs : P s) (r : Result) : Keeps P (finish r s) :=
  keeps_next (h s s.refusal s.agenda r hs)

theorem keeps_exec_port (h : Carried P) (hn : IgnoresNotes P) (hs : P s) (hr : s.refusal = none) {i : Instr}
    (hi : (encode i).fmt = .pio) : Keeps P (exec i s) := by
  obtain ⟨r, e | e⟩ := exec_port_cases hi hr <;> rw [e]
  · exact hn.finish hs r
  · exact hn.finish (h.port i s hs) r

theorem keeps_step (h : Carried P) (hn : IgnoresNotes P) (hs : P s)
    (hexec : ∀ i t, P t → t.refusal = none → Keeps P (exec i t)) : Keeps P (step s) := by
  cases hr : s.refusal with
  | some r =>
    unfold step
    rw [whenLive_refused hr]
    exact keeps_refused _
  | none =>
    have hrest (l : List Event) : P { s with agenda := l } := hn s s.refusal l s.result hs
    obtain e | ⟨a, l, e⟩ | ⟨r, l, e⟩ := step_cases hr <;> rw [e]
    · exact keeps_next hs
    · exact keeps_next (h.agent a _ (hrest l))
    · obtain ⟨i, e⟩ | ⟨x, e⟩ | ⟨x, e⟩ | ⟨x, e⟩ := runRequest_cases r { s with agenda := l } <;> rw [e]
      · exact hexec i _ (hrest l) hr
      · exact hn.finish (hrest l) x
      · exact keeps_next (hn _ (some x) l s.result (hrest l))
      · exact keeps_refused x

end Notes

/-! ### What only grows -/

/-- From `s` to `t` dword mode and the end of UNATTACHED are not taken back (R22, R39), and the recorded violations,
what was sent and delivered, and the answers of the host's requests only grow (R46, R47). -/
structure State.Grows (s t : State) : Prop where
  dwio : s.dev.dwio = true → t.dev.dwio = true := by simp
  faults : s.faults <+: t.faults := by simp
  txOut : s.env.txOut <+: t.env.txOut := by simp
  stackIn : s.env.stackIn <+: t.env.stackIn := by simp
  portAnswers : s.portAnswers <+: t.portAnswers := by simp
  cfg : t.cfg = s.cfg := by simp
  attached : s.ctl.lc ≠ .unattached → t.ctl.lc ≠ .unattached := by simp

@[refl] theorem State.Grows.refl (s : State) : s.Grows s := {}

theorem State.Grows.trans {s₁ s₂ s₃ : State} (h : s₁.Grows s₂) (k : s₂.Grows s₃) : s₁.Grows s₃ where
  dwio := k.dwio ∘ h.dwio
  faults := h.faults.trans k.faults
  txOut := h.txOut.trans k.txOut
  stackIn := h.stackIn.trans k.stackIn
  portAnswers := h.portAnswers.trans k.portAnswers
  cfg := k.cfg.trans h.cfg
  attached := k.attached ∘ h.attached

/-- The controller's own state may change but for its lifecycle state. -/
theorem State.Grows.withCtl {s₀ s : State} (h : s₀.Grows s) {c : Ctl} (hc : c.lc = s.ctl.lc := by rfl) :
    s₀.Grows { s with ctl := c } :=
  h.trans { attached := by simp [hc] }

theorem portRow_dwio (i : Instr) {s : State} (h : s.dev.dwio = true) : (portRow i s).2.dev.dwio = true := by
  cases i <;> simp [portRow, h]

theorem agentStep_grows (a : AgentStep) (s : State) : s.Grows (agentStep a s) :=
  have hframe := agentStep_agentFrame a s
  { dwio := fun h => hframe.dev.dwio.trans h
    faults := hframe.faults
    txOut := hframe.txOut
    stackIn := by rw [hframe.stackIn] }

theorem ctlStore_grows (ring : Ring) (i d a : Nat) (bs : List Byte) (s : State) :
    s.Grows (ctlStore ring i d a bs s) := by
  rcases ctlStore_cases ring i d a bs s with ⟨_, _, e⟩ | ⟨_, e⟩ <;> rw [e]
  · exact {}
  · exact {}

theorem releaseDesc_grows (ring : Ring) (i d : Nat) (st : Half) (s : State) :
    s.Grows (releaseDesc ring i d st s) := by
  rcases releaseDesc_cases ring i d st s with ⟨_, _, e⟩ | ⟨_, e⟩ <;> rw [e]
  · exact {}
  · exact {}

theorem rxArm_grows (base i : Nat) (s : State) : s.Grows (rxArm base i s) :=
  ((((ctlStore_grows ..).trans (ctlStore_grows ..)).trans (ctlStore_grows ..)).trans (ctlStore_grows ..)).trans
    (releaseDesc_grows ..)

theorem txInit_grows (base i : Nat) (s : State) : s.Grows (txInit base i s) :=
  ((((ctlStore_grows ..).trans (ctlStore_grows ..)).trans (ctlStore_grows ..)).trans (ctlStore_grows ..)).trans
    (ctlStore_grows ..)

theorem takeNext_grows (base : Nat) (s : State) : s.Grows (takeNext base s).2 := by
  rcases takeNext_cases base s with ⟨_, e⟩ | ⟨_, e⟩ <;> rw [e]
  exact {}

theorem setLc_grows {l : Lifecycle} (hl : l ≠ .unattached) (s : State) : s.Grows (setLc l s) :=
  { attached := fun _ => hl }

theorem giveBack_grows (s : State) : s.Grows (giveBack s) := {}

section Growing

variable {s₀ s : State}

theorem carried_grows : Carried s₀.Grows where
  agent a s h := h.trans (agentStep_grows a s)
  port i _ h := h.trans { dwio := portRow_dwio i }
  answer _ _ h := h.trans {}
  pop _ _ h := h.trans {}

theorem guides_grows : Guides s₀.Grows (Keeps s₀.Grows) where
  toCarried := carried_grows
  ends _ _ h _ := keeps_next h

theorem grows_ignoresNotes : IgnoresNotes s₀.Grows := fun _ _ _ _ h => h.trans {}

theorem State.Grows.finish (h : s₀.Grows s) (r : Result) : Keeps s₀.Grows (finish r s) :=
  grows_ignoresNotes.finish h r

theorem setUpRings_grows (hs : s₀.Grows s) (hr : s.refusal = none) (base : Nat) {k : State → Out}
    (hk : KeepsFrom s₀.Grows s₀.Grows k) : Keeps s₀.Grows (setUpRings base s k) := by
  unfold setUpRings
  refine guides_grows.forSlots 0 _ (fun i t _ ht => ht.trans (rxArm_grows base i t)) hs hr fun t ht hr => ?_
  refine guides_grows.forSlots 0 _ (fun i t _ ht => ht.trans (txInit_grows base i t)) ht hr fun t ht hr => ?_
  exact hk _ (ht.trans {}) hr

theorem attachStation_grows (hs : s₀.Grows s) (hr : s.refusal = none) (m : AccessMode) :
    Keeps s₀.Grows (attachStation m s) := by
  have hmode : s₀.Grows { s with ctl := { s.ctl with accessMode := some m } } := hs.withCtl
  unfold attachStation
  refine guides_grows.readStation _ _ hmode hr fun bs t ht _ => ?_
  dsimp only
  split
  · exact (ht.trans {}).finish _
  · unfold attachRegion
    split_ifs
    · refine guides_grows.boundary (ht.trans {}) fun t ht _ => ?_
      refine guides_grows.boundary (ht.trans {}) fun t ht hr => ?_
      refine setUpRings_grows ht hr _ fun t ht _ => ?_
      exact (ht.trans (setLc_grows (by decide) t)).finish _
    · exact keeps_next (ht.trans {})

theorem execAttach_grows (hs : s₀.Grows s) : Keeps s₀.Grows (execAttach s) := by
  refine keeps_whenLive fun _ => ?_
  split_ifs
  · unfold attachSteps
    split_ifs
    · exact hs.finish _
    · refine guides_grows.boundary hs fun t ht _ => ?_
      split_ifs
      · exact ht.finish _
      · refine guides_grows.boundary (ht.trans {}) fun t ht _ => ?_
        split_ifs
        · exact (ht.trans {}).finish _
        · refine guides_grows.boundary (ht.trans {}) fun t ht _ => ?_
          refine guides_grows.probeWidth ht fun m t ht hr => ?_
          cases m with
          | none => exact (ht.trans {}).finish _
          | some m => exact attachStation_grows ht hr m
  · exact hs.finish _

theorem execInitialize_grows (hs : s₀.Grows s) : Keeps s₀.Grows (execInitialize s) := by
  refine keeps_whenLive fun _ => ?_
  split_ifs
  · refine keeps_withAccessMode fun m _ => keeps_withRegion fun r _ _ => ?_
    refine guides_grows.resetDevice hs m fun t ht hr => ?_
    refine setUpRings_grows ht hr _ fun t ht _ => ?_
    refine guides_grows.setBcr ht m _ _ fun t ht _ => ?_
    refine guides_grows.setCsr ht m _ _ fun t ht _ => ?_
    refine guides_grows.setCsr ht m _ _ fun t ht _ => ?_
    refine guides_grows.setCsr ht m _ _ fun t ht _ => ?_
    exact (ht.trans (setLc_grows (by decide) t)).finish _
  · exact hs.finish _

theorem receiveStep_grows (hs : s₀.Grows s) (hr : s.refusal = none) {k : RxTake → State → Out}
    (hk : ∀ r, KeepsFrom s₀.Grows s₀.Grows (k r)) :
    Keeps s₀.Grows (receiveStep s k) := by
  unfold receiveStep
  split_ifs
  · refine keeps_withRegion fun r _ _ => ?_
    exact hk _ _ (hs.trans (takeNext_grows r.base s)) (by simpa using hr)
  · exact hk _ s hs hr

theorem drainLoop_grows (fuel : Nat) (hs : s₀.Grows s) (hr : s.refusal = none) {k : State → Out}
    (hk : KeepsFrom s₀.Grows s₀.Grows k) : Keeps s₀.Grows (drainLoop fuel s k) := by
  induction fuel generalizing s with
  | zero => exact hk s hs hr
  | succ fuel ih =>
    refine receiveStep_grows hs hr fun r t ht hr => ?_
    cases r with
    | packet b => exact guides_grows.boundary (ht.trans {}) fun u hu hr => ih hu hr
    | dropped => exact guides_grows.boundary ht fun u hu hr => ih hu hr
    | empty => exact hk t ht hr
    | badState => exact hk t ht hr

theorem serviceIdon_grows (hs : s₀.Grows s) (hr : s.refusal = none) (m : AccessMode) (v0 : Word) {k : State → Out}
    (hk : KeepsFrom s₀.Grows s₀.Grows k) : Keeps s₀.Grows (serviceIdon m v0 s k) := by
  unfold serviceIdon
  split_ifs
  · exact guides_grows.setCsr hs m _ _ fun t ht hr => hk _ (ht.trans (setLc_grows (by decide) t)) hr
  · exact hk s hs hr

theorem serviceRint_grows (hs : s₀.Grows s) (hr : s.refusal = none) (v0 : Word) {k : State → Out}
    (hk : KeepsFrom s₀.Grows s₀.Grows k) : Keeps s₀.Grows (serviceRint v0 s k) := by
  unfold serviceRint
  split_ifs
  · exact drainLoop_grows _ hs hr hk
  · exact hk s hs hr

theorem execIsr_grows (hs : s₀.Grows s) : Keeps s₀.Grows (execIsr s) := by
  refine keeps_whenLive fun _ => ?_
  split_ifs
  · refine keeps_withAccessMode fun m _ => ?_
    refine guides_grows.getCsr hs m _ fun v0 t ht _ => ?_
    refine guides_grows.setCsr ht m _ _ fun t ht _ => ?_
    refine guides_grows.getCsr ht m _ fun v4 t ht _ => ?_
    refine guides_grows.setCsr ht m _ _ fun t ht hr => ?_
    refine serviceIdon_grows ht hr m v0 fun t ht hr => ?_
    refine serviceRint_grows ht hr v0 fun t ht _ => ?_
    exact ht.withCtl.finish _
  · exact hs.finish _

theorem txPost_grows (base : Nat) (b : List Byte) (s : State) : s.Grows (txPost base b s).2 := by
  unfold txPost
  dsimp only
  split_ifs
  · exact {}
  · refine State.Grows.withCtl ?_
    exact (((((ctlStore_grows ..).trans (ctlStore_grows ..)).trans (ctlStore_grows ..)).trans (ctlStore_grows ..)).trans
      (ctlStore_grows ..)).trans (releaseDesc_grows ..)

theorem execTransmit_grows (hs : s₀.Grows s) (b : List Byte) : Keeps s₀.Grows (execTransmit b s) := by
  refine keeps_whenLive fun _ => ?_
  split_ifs
  · refine keeps_withAccessMode fun m _ => keeps_withRegion fun r _ _ => ?_
    have hpost := hs.trans (txPost_grows r.base b s)
    dsimp only
    split_ifs
    · refine guides_grows.boundary hpost fun t ht _ => ?_
      exact guides_grows.setCsr ht m _ _ fun t ht _ => ht.finish _
    · exact hpost.finish _
  · exact hs.withCtl.finish _
  · exact hs.finish _

theorem execReceive_grows (hs : s₀.Grows s) : Keeps s₀.Grows (execReceive s) :=
  keeps_whenLive fun hr => receiveStep_grows hs hr fun _ _ ht _ => ht.finish _

theorem disableSteps_grows (hs : s₀.Grows s) (hr : s.refusal = none) {k : State → Out}
    (hk : KeepsFrom s₀.Grows s₀.Grows k) : Keeps s₀.Grows (disableSteps s k) := by
  unfold disableSteps
  split_ifs
  · refine keeps_withAccessMode fun m _ => ?_
    exact guides_grows.setCsr hs m _ _ fun t ht hr => hk _ (ht.trans (setLc_grows (by decide) t)) hr
  · exact hk s hs hr

theorem execDisable_grows (hs : s₀.Grows s) : Keeps s₀.Grows (execDisable s) :=
  keeps_whenLive fun hr => disableSteps_grows hs hr fun _ ht _ => ht.finish _

theorem execRelease_grows (hs : s₀.Grows s) : Keeps s₀.Grows (execRelease s) := by
  refine keeps_whenLive fun hr => ?_
  split_ifs
  · exact disableSteps_grows hs hr fun t ht _ => (ht.trans (giveBack_grows t)).finish _
  · exact hs.finish _

theorem exec_grows (hs : s₀.Grows s) (hr : s.refusal = none) (i : Instr) : Keeps s₀.Grows (exec i s) := by
  cases i
  case attach => exact execAttach_grows hs
  case initializeOp => exact execInitialize_grows hs
  case isr => exact execIsr_grows hs
  case transmit b => exact execTransmit_grows hs b
  case receive => exact execReceive_grows hs
  case disable => exact execDisable_grows hs
  case release => exact execRelease_grows hs
  all_goals exact keeps_exec_port carried_grows grows_ignoresNotes hs hr rfl

/-! ### RELEASED -/

/-- `t` is RELEASED, and as in `s₀` are the region that was freed and its bytes (R94, R310). -/
structure State.Sealed (s₀ t : State) : Prop where
  lc : t.ctl.lc = .released
  freed : t.ctl.freed = s₀.ctl.freed
  bytes : ∀ g x, s₀.ctl.freed = some g → g.base ≤ x → x < g.base + g.size → readByte t.mem x = readByte s₀.mem x

theorem carried_sealed : Carried s₀.Sealed where
  agent a s h :=
    ⟨by simpa using h.lc, by simpa using h.freed, fun g x hg h1 h2 =>
      (agentStep_freed (h.freed.trans hg) h1 h2).trans (h.bytes g x hg h1 h2)⟩
  port i s h := ⟨by simpa using h.lc, by simpa using h.freed, by simpa using h.bytes⟩
  answer _ _ h := ⟨h.lc, h.freed, h.bytes⟩
  pop _ _ h := ⟨h.lc, h.freed, h.bytes⟩

theorem guides_sealed : Guides s₀.Sealed (Keeps s₀.Sealed) where
  toCarried := carried_sealed
  ends _ _ h _ := keeps_next h

theorem sealed_ignoresNotes : IgnoresNotes s₀.Sealed := fun _ _ _ _ h => ⟨h.lc, h.freed, h.bytes⟩

theorem State.Sealed.finish (h : s₀.Sealed s) (r : Result) : Keeps s₀.Sealed (finish r s) :=
  sealed_ignoresNotes.finish h r

/-- In RELEASED a drain finds the state illegal and takes nothing (R310). -/
theorem drainLoop_released (fuel : Nat) (hl : s.ctl.lc = .released) (k : State → Out) : drainLoop fuel s k = k s := by
  cases fuel with
  | zero => rfl
  | succ fuel => simp [drainLoop, receiveStep, receives, hl]

/-- In RELEASED the service of an interrupt makes its port requests and counts, and no more. -/
theorem isrSteps_sealed (hs : s₀.Sealed s) (m : AccessMode) : Keeps s₀.Sealed (isrSteps m s) := by
  refine guides_sealed.getCsr hs m _ fun v0 t ht _ => ?_
  refine guides_sealed.setCsr ht m _ _ fun t ht _ => ?_
  refine guides_sealed.getCsr ht m _ fun v4 t ht _ => ?_
  refine guides_sealed.setCsr ht m _ _ fun t ht _ => ?_
  rw [serviceIdon_skip (by simp [ht.lc])]
  have hcount : Keeps s₀.Sealed (finish .serviced (countEvents v0 v4 t)) :=
    State.Sealed.finish (s := countEvents v0 v4 t) ⟨ht.lc, ht.freed, ht.bytes⟩ _
  unfold serviceRint drainRx
  split_ifs
  · rwa [drainLoop_released _ ht.lc]
  · exact hcount

/-- In RELEASED the controller's operations other than ISR do nothing but answer (R310). -/
theorem exec_released (hl : s.ctl.lc = .released) (hr : s.refusal = none) {i : Instr} (hi : (encode i).fmt = .op)
    (hisr : i ≠ .isr) : ∃ r, exec i s = finish r s := by
  cases i
  case attach => exact ⟨.badState, by simp [exec, execAttach, whenLive_live hr, hl]⟩
  case initializeOp => exact ⟨.badState, by simp [exec, execInitialize, whenLive_live hr, hl, initializes]⟩
  case isr => exact absurd rfl hisr
  case transmit b => exact ⟨.txError .badState, by simp [exec, execTransmit, whenLive_live hr, hl, transmits]⟩
  case receive =>
    exact ⟨.badState, by simp [exec, execReceive, whenLive_live hr, receiveStep, hl, receives, takeResult]⟩
  case disable => exact ⟨.ok, by simp [exec, execDisable, whenLive_live hr, disableSteps, hl, disables]⟩
  case release => exact ⟨.ok, by simp [exec, execRelease, whenLive_live hr, hl, releases]⟩
  all_goals cases hi

theorem execIsr_sealed (hs : s₀.Sealed s) : Keeps s₀.Sealed (execIsr s) := by
  refine keeps_whenLive fun _ => ?_
  split_ifs
  · exact keeps_withAccessMode fun m _ => isrSteps_sealed hs m
  · exact hs.finish _

theorem exec_sealed (hs : s₀.Sealed s) (hr : s.refusal = none) (i : Instr) : Keeps s₀.Sealed (exec i s) := by
  cases hi : (encode i).fmt with
  | pio => exact keeps_exec_port carried_sealed sealed_ignoresNotes hs hr hi
  | op =>
    by_cases hisr : i = .isr
    · subst hisr
      exact execIsr_sealed hs
    · obtain ⟨r, e⟩ := exec_released hs.lc hr hi hisr
      rw [e]
      exact hs.finish r

end Growing

theorem step_grows (s : State) : Keeps s.Grows (step s) :=
  keeps_step carried_grows grows_ignoresNotes (State.Grows.refl s) fun i _ ht hr => exec_grows ht hr i

theorem step_sealed {s : State} (hl : s.ctl.lc = .released) : Keeps s.Sealed (step s) :=
  keeps_step carried_sealed sealed_ignoresNotes ⟨hl, rfl, fun _ _ _ _ _ => rfl⟩ fun i _ ht hr =>
    exec_sealed ht hr i

/-- Settles O60: from any state a step only adds (`step_grows`), and from RELEASED it also keeps that state, the freed
region and its bytes (`step_sealed`). -/
theorem stepNeverTakesBack : Obligations.StepNeverTakesBack := by
  intro s t e
  have hgrows := step_grows s t e
  refine ⟨hgrows.dwio, hgrows.faults, hgrows.txOut, hgrows.stackIn, hgrows.portAnswers, hgrows.cfg,
    fun hl => (step_sealed hl t e).lc, hgrows.attached, fun g hl hg => ?_⟩
  have hsealed := step_sealed hl t e
  exact ⟨hsealed.freed.trans hg, fun x => hsealed.bytes g x hg⟩

end Sys2Proof.Machine
end

section
/-!
PROOF. Proofs of the statements of 30_encoding.md about the decoder and the encoder (O1 to O4, O6): decoding undoes
encoding and encoding undoes decoding, and the port decoder takes the words of the port map (R121 to R128).
-/

namespace Sys2Proof

open Machine Laws

/-! ### Operand bytes -/

/-- A row without operand bytes is spelt by its word alone. -/
theorem bare_eq_ok_iff {i j : Instr} {data : List Byte} : bare i data = .ok j ↔ data = [] ∧ i = j := by
  cases data <;> simp [bare]

theorem withHalf_halfBytes (f : Half → Instr) (v : Half) : withHalf f (halfBytes v) = .ok (f v) :=
  congrArg (fun v => Except.ok (f v)) (half_of_bytes v)

theorem withWord_wordBytes (f : Word → Instr) (v : Word) : withWord f (wordBytes v) = .ok (f v) :=
  congrArg (fun v => Except.ok (f v)) (word_of_bytes v)

theorem halfBytes_append (b0 b1 : Byte) : halfBytes (b1 ++ b0) = [b0, b1] := by
  have h0 : (b1 ++ b0 : Half).extractLsb' 0 8 = b0 := BitVec.extractLsb'_append_eq_right
  have h1 : (b1 ++ b0 : Half).extractLsb' 8 8 = b1 := BitVec.extractLsb'_append_eq_left
  rw [halfBytes, h0, h1]

theorem wordBytes_append (b0 b1 b2 b3 : Byte) : wordBytes (b3 ++ b2 ++ b1 ++ b0) = [b0, b1, b2, b3] := by
  have h0 : (b3 ++ b2 ++ b1 ++ b0 : Word).extractLsb' 0 8 = b0 := BitVec.extractLsb'_append_eq_right
  have h1 : (b3 ++ b2 ++ b1 ++ b0 : Word).extractLsb' 8 8 = b1 :=
    (BitVec.extractLsb'_append_eq_of_le (show 8 ≤ 8 by decide)).trans BitVec.extractLsb'_append_eq_right
  have h2 : (b3 ++ b2 ++ b1 ++ b0 : Word).extractLsb' 16 8 = b2 :=
    (BitVec.extractLsb'_append_eq_of_le (show 8 ≤ 16 by decide)).trans <|
      (BitVec.extractLsb'_append_eq_of_le (show 8 ≤ 8 by decide)).trans BitVec.extractLsb'_append_eq_right
  have h3 : (b3 ++ b2 ++ b1 ++ b0 : Word).extractLsb' 24 8 = b3 :=
    (BitVec.extractLsb'_append_eq_of_le (show 8 ≤ 24 by decide)).trans <|
      (BitVec.extractLsb'_append_eq_of_le (show 8 ≤ 16 by decide)).trans BitVec.extractLsb'_append_eq_left
  rw [wordBytes, h0, h1, h2, h3]

/-- A word write takes exactly the two bytes of a `u16`. -/
theorem withHalf_eq_ok_iff {f : Half → Instr} {data : List Byte} {j : Instr} :
    withHalf f data = .ok j ↔ ∃ v, data = halfBytes v ∧ f v = j := by
  constructor
  · intro h
    match data, h with
    | [b0, b1], h => exact ⟨b1 ++ b0, (halfBytes_append b0 b1).symm, Except.ok.inj h⟩
  · rintro ⟨v, rfl, rfl⟩
    exact withHalf_halfBytes f v

/-- A dword write takes exactly the four bytes of a `u32`. -/
theorem withWord_eq_ok_iff {f : Word → Instr} {data : List Byte} {j : Instr} :
    withWord f data = .ok j ↔ ∃ v, data = wordBytes v ∧ f v = j := by
  constructor
  · intro h
    match data, h with
    | [b0, b1, b2, b3], h => exact ⟨b3 ++ b2 ++ b1 ++ b0, (wordBytes_append b0 b1 b2 b3).symm, Except.ok.inj h⟩
  · rintro ⟨v, rfl, rfl⟩
    exact withWord_wordBytes f v

/-! ### The APROM rows: mask, match and offset (R125) -/

theorem decodePio_apromRb_of_match {w : Byte} (h : w &&& 0xF0 = 0x00) (d : Bool) (data : List Byte) :
    decodePio d w data = bare (.apromRb (w.extractLsb' 0 4)) data := if_pos h

theorem decodePio_apromRw_of_match {w : Byte} (h : w &&& 0xF1 = 0x20) (d : Bool) (data : List Byte) :
    decodePio d w data = bare (.apromRw (w.extractLsb' 0 4)) data := by
  have hrb : w &&& 0xF0 ≠ 0x00 := by revert w; decide
  unfold decodePio
  rw [if_neg hrb, if_pos h]

theorem decodePio_apromRd_of_match {w : Byte} (h : w &&& 0xF3 = 0x40) (d : Bool) (data : List Byte) :
    decodePio d w data = bare (.apromRd (w.extractLsb' 0 4)) data := by
  have hrb : w &&& 0xF0 ≠ 0x00 := by revert w; decide
  have hrw : w &&& 0xF1 ≠ 0x20 := by revert w; decide
  unfold decodePio
  rw [if_neg hrb, if_neg hrw, if_pos h]

/-! ### What decodes is what is encoded (R128) -/

/-- The request `r` spells the instruction `i` in the mode `d`: it is the encoding of `i`, whose operands are ones its
row admits, and the map of the mode has that row. -/
structure Spells (d : Bool) (r : Request) (i : Instr) : Prop where
  request : encode i = r
  wf : i.wf = true
  mode : modeAdmits (rowMode i) d = true

theorem Spells.of_bare {d : Bool} {fmt : Format} {w : Byte} {data : List Byte} {i j : Instr}
    (h : bare i data = .ok j) (hi : Spells d ⟨fmt, [w]⟩ i) : Spells d ⟨fmt, w :: data⟩ j := by
  obtain ⟨rfl, rfl⟩ := bare_eq_ok_iff.1 h
  exact hi

/-- A decoder row `k` without operand bytes, and the rows after it. -/
theorem Spells.bareRow {d : Bool} {fmt : Format} {w k : Byte} {data : List Byte} {i j : Instr}
    {rest : Except DecodeError Instr} (h : (if w = k then bare i data else rest) = .ok j)
    (hi : Spells d ⟨fmt, [k]⟩ i) (hrest : rest = .ok j → Spells d ⟨fmt, w :: data⟩ j) :
    Spells d ⟨fmt, w :: data⟩ j := by
  obtain ⟨rfl, hrow⟩ | ⟨-, hlater⟩ := ite_eq_iff.1 h
  · exact Spells.of_bare hrow hi
  · exact hrest hlater

/-- A decoder row `k` of a word write, and the rows after it. -/
theorem Spells.halfRow {d : Bool} {fmt : Format} {w k : Byte} {data : List Byte} {f : Half → Instr} {j : Instr}
    {rest : Except DecodeError Instr} (h : (if w = k then withHalf f data else rest) = .ok j)
    (hf : ∀ v, Spells d ⟨fmt, k :: halfBytes v⟩ (f v)) (hrest : rest = .ok j → Spells d ⟨fmt, w :: data⟩ j) :
    Spells d ⟨fmt, w :: data⟩ j := by
  obtain ⟨rfl, hrow⟩ | ⟨-, hlater⟩ := ite_eq_iff.1 h
  · obtain ⟨v, rfl, rfl⟩ := withHalf_eq_ok_iff.1 hrow
    exact hf v
  · exact hrest hlater

/-- A decoder row `k` of a dword write, and the rows after it. -/
theorem Spells.wordRow {d : Bool} {fmt : Format} {w k : Byte} {data : List Byte} {f : Word → Instr} {j : Instr}
    {rest : Except DecodeError Instr} (h : (if w = k then withWord f data else rest) = .ok j)
    (hf : ∀ v, Spells d ⟨fmt, k :: wordBytes v⟩ (f v)) (hrest : rest = .ok j → Spells d ⟨fmt, w :: data⟩ j) :
    Spells d ⟨fmt, w :: data⟩ j := by
  obtain ⟨rfl, hrow⟩ | ⟨-, hlater⟩ := ite_eq_iff.1 h
  · obtain ⟨v, rfl, rfl⟩ := withWord_eq_ok_iff.1 hrow
    exact hf v
  · exact hrest hlater

theorem spells_apromRb (d : Bool) {w : Byte} (h : w &&& 0xF0 = 0x00) :
    Spells d ⟨.pio, [w]⟩ (.apromRb (w.extractLsb' 0 4)) := by
  have hw : (0x00 ||| (w.extractLsb' 0 4).setWidth 8 : Byte) = w := by revert w; decide
  exact ⟨by rw [encode, hw]; rfl, rfl, rfl⟩

theorem spells_apromRw (d : Bool) {w : Byte} (h : w &&& 0xF1 = 0x20) :
    Spells d ⟨.pio, [w]⟩ (.apromRw (w.extractLsb' 0 4)) := by
  have hw : (0x20 ||| (w.extractLsb' 0 4).setWidth 8 : Byte) = w := by revert w; decide
  have heven : (Instr.apromRw (w.extractLsb' 0 4)).wf = true := by revert w; decide
  exact ⟨by rw [encode, hw]; rfl, heven, rfl⟩

theorem spells_apromRd (d : Bool) {w : Byte} (h : w &&& 0xF3 = 0x40) :
    Spells d ⟨.pio, [w]⟩ (.apromRd (w.extractLsb' 0 4)) := by
  have hw : (0x40 ||| (w.extractLsb' 0 4).setWidth 8 : Byte) = w := by revert w; decide
  have haligned : (Instr.apromRd (w.extractLsb' 0 4)).wf = true := by revert w; decide
  exact ⟨by rw [encode, hw]; rfl, haligned, rfl⟩

/-- The port decoder, row by row: what it reads is spelt by the request. -/
theorem decodePio_spells {d : Bool} {w : Byte} {data : List Byte} {i : Instr} (h : decodePio d w data = .ok i) :
    Spells d ⟨.pio, w :: data⟩ i := by
  unfold decodePio at h
  obtain ⟨hw, h⟩ | ⟨-, h⟩ := ite_eq_iff.1 h
  · exact Spells.of_bare h (spells_apromRb d hw)
  obtain ⟨hw, h⟩ | ⟨-, h⟩ := ite_eq_iff.1 h
  · exact Spells.of_bare h (spells_apromRw d hw)
  obtain ⟨hw, h⟩ | ⟨-, h⟩ := ite_eq_iff.1 h
  · exact Spells.of_bare h (spells_apromRd d hw)
  cases d with
  | false =>
    refine Spells.bareRow h ⟨rfl, rfl, rfl⟩ fun h => ?_
    refine Spells.wordRow h (fun _ => ⟨rfl, rfl, rfl⟩) fun h => ?_
    refine Spells.halfRow h (fun _ => ⟨rfl, rfl, rfl⟩) fun h => ?_
    refine Spells.bareRow h ⟨rfl, rfl, rfl⟩ fun h => ?_
    refine Spells.halfRow h (fun _ => ⟨rfl, rfl, rfl⟩) fun h => ?_
    refine Spells.bareRow h ⟨rfl, rfl, rfl⟩ fun h => ?_
    refine Spells.bareRow h ⟨rfl, rfl, rfl⟩ fun h => ?_
    refine Spells.halfRow h (fun _ => ⟨rfl, rfl, rfl⟩) fun h => ?_
    cases h
  | true =>
    refine Spells.bareRow h ⟨rfl, rfl, rfl⟩ fun h => ?_
    refine Spells.wordRow h (fun _ => ⟨rfl, rfl, rfl⟩) fun h => ?_
    refine Spells.bareRow h ⟨rfl, rfl, rfl⟩ fun h => ?_
    refine Spells.wordRow h (fun _ => ⟨rfl, rfl, rfl⟩) fun h => ?_
    refine Spells.bareRow h ⟨rfl, rfl, rfl⟩ fun h => ?_
    refine Spells.bareRow h ⟨rfl, rfl, rfl⟩ fun h => ?_
    refine Spells.wordRow h (fun _ => ⟨rfl, rfl, rfl⟩) fun h => ?_
    cases h

/-- The operation decoder, row by row (R122). -/
theorem decodeOp_spells (d : Bool) {w : Byte} {data : List Byte} {i : Instr} (h : decodeOp w data = .ok i) :
    Spells d ⟨.op, w :: data⟩ i := by
  unfold decodeOp at h
  refine Spells.bareRow h ⟨rfl, rfl, rfl⟩ fun h => ?_
  refine Spells.bareRow h ⟨rfl, rfl, rfl⟩ fun h => ?_
  refine Spells.bareRow h ⟨rfl, rfl, rfl⟩ fun h => ?_
  obtain ⟨rfl, h⟩ | ⟨-, h⟩ := ite_eq_iff.1 h
  · cases h
    exact ⟨rfl, rfl, rfl⟩
  refine Spells.bareRow h ⟨rfl, rfl, rfl⟩ fun h => ?_
  refine Spells.bareRow h ⟨rfl, rfl, rfl⟩ fun h => ?_
  refine Spells.bareRow h ⟨rfl, rfl, rfl⟩ fun h => ?_
  cases h

/-- Settles O3, decoder by decoder. -/
theorem encodeDecode : Obligations.EncodeDecode := by
  rintro d ⟨fmt, bytes⟩ i h
  have hspells : Spells d ⟨fmt, bytes⟩ i := by
    cases bytes with
    | nil => cases h
    | cons w data =>
      cases fmt with
      | pio => exact decodePio_spells h
      | op => exact decodeOp_spells d h
  exact ⟨hspells.request, hspells.wf, hspells.mode⟩

/-! ### What is encoded decodes -/

theorem decodeRequest_encode_any {i : Instr} (hrow : rowMode i = .any) (hwf : i.wf = true) (d : Bool) :
    decodeRequest d (encode i) = .ok i := by
  cases i
  case apromRb off =>
    have hoff : (0x00 ||| off.setWidth 8 : Byte).extractLsb' 0 4 = off := by revert off; decide
    exact (decodePio_apromRb_of_match (RowMatch.apromRb off hwf).2 d []).trans
      (congrArg (fun off => Except.ok (Instr.apromRb off)) hoff)
  case apromRw off =>
    have hoff : (0x20 ||| off.setWidth 8 : Byte).extractLsb' 0 4 = off := by revert off; decide
    exact (decodePio_apromRw_of_match (RowMatch.apromRw off hwf).2 d []).trans
      (congrArg (fun off => Except.ok (Instr.apromRw off)) hoff)
  case apromRd off =>
    have hoff : (0x40 ||| off.setWidth 8 : Byte).extractLsb' 0 4 = off := by revert off; decide
    exact (decodePio_apromRd_of_match (RowMatch.apromRd off hwf).2 d []).trans
      (congrArg (fun off => Except.ok (Instr.apromRd off)) hoff)
  case attach | initializeOp | isr | transmit | receive | disable | release => rfl
  all_goals cases hrow

theorem decodeRequest_encode_wio {i : Instr} (hrow : rowMode i = .wio) : decodeRequest false (encode i) = .ok i := by
  cases i
  case rdpRw | rapRw | resetRw | bdpRw => rfl
  case dwioEnter v => exact withWord_wordBytes _ v
  case rdpWw v | rapWw v | bdpWw v => exact withHalf_halfBytes _ v
  all_goals cases hrow

theorem decodeRequest_encode_dwio {i : Instr} (hrow : rowMode i = .dwio) : decodeRequest true (encode i) = .ok i := by
  cases i
  case rdpRd | rapRd | resetRd | bdpRd => rfl
  case rdpWd v | rapWd v | bdpWd v => exact withWord_wordBytes _ v
  all_goals cases hrow

/-- Settles O2, by the mode column of the row: a row of one mode only is read in that mode. -/
theorem decodeEncode : Obligations.DecodeEncode := by
  intro i d hwf hmode
  cases hrow : rowMode i with
  | any => exact decodeRequest_encode_any hrow hwf d
  | wio =>
    obtain rfl : d = false := by simpa [hrow, modeAdmits] using hmode
    exact decodeRequest_encode_wio hrow
  | dwio =>
    obtain rfl : d = true := by simpa [hrow, modeAdmits] using hmode
    exact decodeRequest_encode_dwio hrow

/-- Settles O1, running the decoder on each word. -/
theorem specWordsDecode : Obligations.SpecWordsDecode := by
  unfold Obligations.SpecWordsDecode
  decide

/-! ### The port map (R125) -/

theorem takes_iff {r : PortRow} {d : Bool} {w : Byte} :
    r.takes d w = true ↔ modeAdmits r.mode d = true ∧ w &&& r.mask = r.pattern := by
  simp [PortRow.takes]

/-- Under the full mask a row takes one word. -/
theorem and_full_mask (w : Byte) : w &&& 255#8 = w := BitVec.and_allOnes

/-- Two rows of the map that a mode has and whose patterns agree under both masks are one row. -/
theorem portRows_apart : ∀ r ∈ portRows, ∀ r' ∈ portRows, ∀ d : Bool,
    modeAdmits r.mode d = true → modeAdmits r'.mode d = true → r.pattern &&& r'.mask = r'.pattern &&& r.mask →
    r = r' := by decide

theorem takes_unique {r r' : PortRow} (hr : r ∈ portRows) (hr' : r' ∈ portRows) {d : Bool} {w : Byte}
    (h : r.takes d w = true) (h' : r'.takes d w = true) : r = r' := by
  obtain ⟨hmode, hmatch⟩ := takes_iff.1 h
  obtain ⟨hmode', hmatch'⟩ := takes_iff.1 h'
  refine portRows_apart r hr r' hr' d hmode hmode' ?_
  rw [← hmatch, ← hmatch', BitVec.and_assoc, BitVec.and_assoc, BitVec.and_comm r.mask]

/-- The word of a row with the full mask decodes with the operand bytes the row carries: none, two or four. -/
theorem decodePio_pattern : ∀ r ∈ portRows, r.mask = 0xFF → ∀ d : Bool, modeAdmits r.mode d = true →
    ∃ n ∈ [0, 2, 4], (decodePio d r.pattern (List.replicate n 0)).toBool = true := by decide

/-- The other rows are those of the APROM. -/
theorem portRows_of_mask_ne : ∀ r ∈ portRows, r.mask ≠ 0xFF →
    r = ⟨.any, 0xF0, 0x00⟩ ∨ r = ⟨.any, 0xF1, 0x20⟩ ∨ r = ⟨.any, 0xF3, 0x40⟩ := by decide

/-- A word that a row takes decodes, with some operand bytes. -/
theorem decodePio_of_takes {r : PortRow} (hr : r ∈ portRows) {d : Bool} {w : Byte} (h : r.takes d w = true) :
    ∃ data i, decodePio d w data = .ok i := by
  obtain ⟨hmode, hmatch⟩ := takes_iff.1 h
  by_cases hmask : r.mask = 0xFF
  · obtain rfl : w = r.pattern := by
      rw [hmask] at hmatch
      exact (and_full_mask w).symm.trans hmatch
    obtain ⟨n, -, hok⟩ := decodePio_pattern r hr hmask d hmode
    cases e : decodePio d r.pattern (List.replicate n 0) with
    | ok i => exact ⟨_, i, e⟩
    | error _ => rw [e] at hok; cases hok
  · obtain rfl | rfl | rfl := portRows_of_mask_ne r hr hmask
    · exact ⟨[], _, decodePio_apromRb_of_match hmatch d []⟩
    · exact ⟨[], _, decodePio_apromRw_of_match hmatch d []⟩
    · exact ⟨[], _, decodePio_apromRd_of_match hmatch d []⟩

/-- A word that no row takes is undecoded, whatever bytes follow (R126). -/
theorem decodePio_undecoded {d : Bool} {w : Byte} (h : ∀ r ∈ portRows, r.takes d w = false) (data : List Byte) :
    decodePio d w data = .error (.undecoded w) := by
  have hrows : ∀ r ∈ portRows, modeAdmits r.mode d = true → w &&& r.mask ≠ r.pattern := fun r hr hmode hmatch =>
    absurd (takes_iff.2 ⟨hmode, hmatch⟩) (by simp [h r hr])
  cases d with
  | false =>
    simp [portRows, modeAdmits, and_full_mask] at hrows
    simp [decodePio, hrows]
  | true =>
    simp [portRows, modeAdmits, and_full_mask] at hrows
    simp [decodePio, hrows]

/-- Settles O4: disjoint patterns (`portRows_apart`), and the decoder on a word that a row takes and on one that none
takes. -/
theorem portDecoderFollowsTheMap : Obligations.PortDecoderFollowsTheMap := fun _ _ =>
  ⟨fun _ hr _ hr' => takes_unique hr hr', fun ⟨_, hr, h⟩ => decodePio_of_takes hr h, decodePio_undecoded⟩

/-! ### Rows of the other mode (R126, R173) -/

/-- Settles O6: a row of one mode only is a read or a write of its word's width, and answers as such
(`readMeaning_other_mode`, `writeMeaning_other_mode`). -/
theorem rowOfTheOtherModeIsUndecoded : Obligations.RowOfTheOtherModeIsUndecoded := by
  intro i s w data hr he hm
  cases i
  case apromRb | apromRw | apromRd => cases hm
  case attach | initializeOp | isr | transmit | receive | disable | release => cases he
  case dwioEnter | rdpWw | rapWw | bdpWw | rdpWd | rapWd | bdpWd =>
    cases he
    exact writeMeaning_other_mode hr hm _
  all_goals
    cases he
    exact readMeaning_other_mode hr hm _ _ _

end Sys2Proof
end

section
/-!
PROOF. Proofs of the statements of 30_encoding.md about the step: what it does with a request, decoded or reserved, and
with the step of another agent (O7 to O9; R131, R134).
-/

namespace Sys2Proof.Machine

/-! ### Requests -/

/-- A live run whose next event is a request performs it in the state without the event. -/
theorem step_request {s : State} (hr : s.refusal = none) {r : Request} {rest : List Event}
    (ha : s.agenda = .request r :: rest) : step s = runRequest r { s with agenda := rest } := by
  simp only [step, whenLive_live hr, nextEvent, ha]

theorem runRequest_decoded {s : State} {r : Request} {i : Instr} (h : decodeRequest s.dev.dwio r = .ok i) :
    runRequest r s = exec i s := by
  simp only [runRequest, h]

theorem runRequest_rejected {s : State} {r : Request} {e : DecodeError} (h : decodeRequest s.dev.dwio r = .error e) :
    runRequest r s = rejectedRequest e s := by
  simp only [runRequest, h]

/-- Settles O8. -/
theorem stepRunsTheDecodedRequest : Obligations.StepRunsTheDecodedRequest := by
  intro s r rest i hr ha hd
  exact (step_request hr ha).trans (runRequest_decoded hd)

/-- The operation words that spell no operation (R131). -/
abbrev ReservedWord (w : Byte) : Prop :=
  w.extractLsb' 4 4 = 0 ∨ 8 ≤ (w.extractLsb' 4 4).toNat ∨ w.extractLsb' 0 4 ≠ 0

theorem decodeOp_reserved {w : Byte} (h : ReservedWord w) (data : List Byte) :
    decodeOp w data = .error .reservedOp := by
  have hne (k : Byte) (hk : ¬ ReservedWord k) : w ≠ k := fun e => hk (e ▸ h)
  rw [decodeOp, if_neg (hne _ (by decide)), if_neg (hne _ (by decide)), if_neg (hne _ (by decide)),
    if_neg (hne _ (by decide)), if_neg (hne _ (by decide)), if_neg (hne _ (by decide)), if_neg (hne _ (by decide))]

theorem runRequest_reservedOp {w : Byte} (h : ReservedWord w) (data : List Byte) (s : State) :
    runRequest ⟨.op, w :: data⟩ s = .next (refuse .reservedOp s) := by
  have hd : decodeRequest s.dev.dwio ⟨.op, w :: data⟩ = .error .reservedOp := decodeOp_reserved h data
  exact runRequest_rejected hd

/-- Settles O7: no row has a reserved word (`decodeOp_reserved`), and a word rejected as reserved marks the run. -/
theorem reservedOpIsRefused : Obligations.ReservedOpIsRefused := by
  intro s w data rest hr ha hw
  exact (step_request hr ha).trans (runRequest_reservedOp hw data _)

/-! ### Agent steps -/

/-- A live run whose next event is an agent step takes it. -/
theorem step_agent {s : State} (hr : s.refusal = none) {a : AgentStep} {rest : List Event}
    (ha : s.agenda = .agent a :: rest) : step s = .next (agentStep a { s with agenda := rest }) := by
  simp only [step, whenLive_live hr, nextEvent, ha]

/-- An agent step changes nothing where the step itself would change nothing. -/
theorem agentStep_eq_self {a : AgentStep} {s : State} (h : takeStep a s = s) : agentStep a s = s := by
  rcases agentStep_cases a s with e | ⟨_, _, e⟩
  · exact e
  · exact e.trans h

/-- A step that would reach the freed region does not occur (R463). -/
theorem agentStep_barred {a : AgentStep} {s : State} (h : barred a s = true) : agentStep a s = s := by
  rcases agentStep_cases a s with e | ⟨_, hfree, _⟩
  · exact e
  · rw [h] at hfree; cases hfree

theorem takeStep_init_disabled {s : State} (h : s.dev.devState ≠ .initPending) : takeStep .init s = s := if_neg h

theorem takeStep_tx_disabled {s : State} (h : s.dev.devState ≠ .running ∨ s.dev.csr0.txon = false) (o : TxOutcome)
    (c : Bool) : takeStep (.tx o c) s = s :=
  if_neg fun ⟨hrun, htxon⟩ => h.elim (fun hn => hn hrun) fun hoff => by rw [hoff] at htxon; cases htxon

theorem takeStep_rx_disabled {s : State} (h : s.env.rxIn = []) : takeStep .rx s = s := by
  simp only [takeStep, devRx, h]

/-- Settles O9. The steps of the environment access no memory, so none of them is barred. -/
theorem stepTakesAgentSteps : Obligations.StepTakesAgentSteps where
  left _ _ _ hr ha := step_agent hr ha
  right := by
    refine ⟨fun s h => agentStep_eq_self (takeStep_init_disabled h),
      fun s o c h => agentStep_eq_self (takeStep_tx_disabled h o c),
      fun s h => agentStep_eq_self (takeStep_rx_disabled h), fun s f hr => ⟨fun hf => ?_, fun hf => ?_⟩,
      fun s g hr => agentStep_live hr rfl, fun s a h => agentStep_barred h⟩
    · exact (agentStep_live hr rfl).trans (if_neg hf)
    · exact agentStep_eq_self (if_pos hf)

end Sys2Proof.Machine
end

section
/-!
PROOF. Proofs of the statements of 40_register_access.md about single port requests: the frame of every one of them (O18),
an undecoded one (O5), and what each row reads and writes (O12 to O17; R161 to R180).
-/

namespace Sys2Proof.Machine

/-! ### The relation between the device before and after a port request

Each structure is a preorder whose fields default to "unchanged", so the proof for an update names only the fields the
update clears. -/

/-- From CSR0 `c` to `c'` no write-1-to-clear flag is set (R49). -/
structure Csr0.PortFrame (c c' : Csr0) : Prop where
  babl : c'.babl = true → c.babl = true := by exact id
  cerr : c'.cerr = true → c.cerr = true := by exact id
  miss : c'.miss = true → c.miss = true := by exact id
  merr : c'.merr = true → c.merr = true := by exact id
  rint : c'.rint = true → c.rint = true := by exact id
  tint : c'.tint = true → c.tint = true := by exact id
  idon : c'.idon = true → c.idon = true := by exact id

@[refl] theorem Csr0.PortFrame.refl (c : Csr0) : c.PortFrame c := {}

theorem Csr0.PortFrame.trans {c₁ c₂ c₃ : Csr0} (h : c₁.PortFrame c₂) (k : c₂.PortFrame c₃) : c₁.PortFrame c₃ where
  babl := h.babl ∘ k.babl
  cerr := h.cerr ∘ k.cerr
  miss := h.miss ∘ k.miss
  merr := h.merr ∘ k.merr
  rint := h.rint ∘ k.rint
  tint := h.tint ∘ k.tint
  idon := h.idon ∘ k.idon

/-- From device `d` to `d'` the latched values and the device's cursors are unchanged (R36, R37), no flag is set (R49), and
dword mode is not left (R22). -/
structure Dev.PortFrame (d d' : Dev) : Prop where
  padr : d'.padr = d.padr := by rfl
  ladrf : d'.ladrf = d.ladrf := by rfl
  rdra : d'.rdra = d.rdra := by rfl
  tdra : d'.tdra = d.tdra := by rfl
  rlen : d'.rlen = d.rlen := by rfl
  tlen : d'.tlen = d.tlen := by rfl
  rxCurDev : d'.rxCurDev = d.rxCurDev := by rfl
  txCurDev : d'.txCurDev = d.txCurDev := by rfl
  dwio : d.dwio = true → d'.dwio = true := by exact id
  csr0 : d.csr0.PortFrame d'.csr0 := by exact {}
  mfco : d'.csr4.mfco = true → d.csr4.mfco = true := by exact id

@[refl] theorem Dev.PortFrame.refl (d : Dev) : d.PortFrame d := {}

theorem Dev.PortFrame.trans {d₁ d₂ d₃ : Dev} (h : d₁.PortFrame d₂) (k : d₂.PortFrame d₃) : d₁.PortFrame d₃ where
  padr := k.padr.trans h.padr
  ladrf := k.ladrf.trans h.ladrf
  rdra := k.rdra.trans h.rdra
  tdra := k.tdra.trans h.tdra
  rlen := k.rlen.trans h.rlen
  tlen := k.tlen.trans h.tlen
  rxCurDev := k.rxCurDev.trans h.rxCurDev
  txCurDev := k.txCurDev.trans h.txCurDev
  dwio := k.dwio ∘ h.dwio
  csr0 := h.csr0.trans k.csr0
  mfco := h.mfco ∘ k.mfco

/-! ### The register operations keep it -/

theorem acknowledge_portFrame (c : Csr0) (v : Half) : c.PortFrame (acknowledge c v) where
  babl := Bool.and_elim_left
  cerr := Bool.and_elim_left
  miss := Bool.and_elim_left
  merr := Bool.and_elim_left
  rint := Bool.and_elim_left
  tint := Bool.and_elim_left
  idon := Bool.and_elim_left

theorem clear_portFrame (c : Csr0) : c.PortFrame Csr0.clear := by constructor <;> nofun

theorem devStop_portFrame (d : Dev) : d.PortFrame (devStop d) := { csr0 := clear_portFrame _ }

theorem devSReset_portFrame (d : Dev) : d.PortFrame (devSReset d) := { csr0 := clear_portFrame _, mfco := nofun }

theorem commandInitStrt_portFrame (d : Dev) (v : Half) : d.PortFrame (commandInitStrt d v) := by
  rcases commandInitStrt_cases d v with ⟨_, _, e⟩ | ⟨_, _, e⟩ | ⟨_, _, e⟩ | e <;> rw [e]
  all_goals exact {}

theorem commandTdmd_portFrame (d : Dev) (v : Half) : d.PortFrame (commandTdmd d v) := by
  rcases commandTdmd_cases d v with ⟨_, _, _, e⟩ | e <;> rw [e]
  exact {}

/-- A CSR0 write acknowledges, and then stops the device or gives it commands (R208): none of these sets a flag. -/
theorem csr0Write_portFrame (d : Dev) (v : Half) : d.PortFrame (csr0Write d v) := by
  have hack (b : Bool) : d.PortFrame { d with csr0 := { acknowledge d.csr0 v with iena := b }, atStop := false } :=
    { csr0 := (acknowledge_portFrame d.csr0 v).trans {} }
  unfold csr0Write
  dsimp only
  split_ifs
  · exact (hack (acknowledge d.csr0 v).iena).trans (devStop_portFrame _)
  · exact ((hack (v.getLsbD 6)).trans (commandInitStrt_portFrame _ v)).trans (commandTdmd_portFrame _ v)

theorem csr4Write_portFrame (d : Dev) (v : Half) : d.PortFrame (csr4Write d v) := { mfco := Bool.and_elim_left }

theorem csrWrite_portFrame (d : Dev) (n : Byte) (v : Half) : d.PortFrame (csrWrite d n v) := by
  unfold csrWrite
  split_ifs
  exacts [csr0Write_portFrame d v, {}, .refl d, {}, .refl d, csr4Write_portFrame d v, {}, .refl d, .refl d]

theorem bcrWrite_eq (d : Dev) (n : Byte) (v : Half) :
    bcrWrite d n v =
      { d with swstyle := if n = 20 ∧ d.devState = .stopped then v.extractLsb' 0 8 else d.swstyle } := by
  unfold bcrWrite
  by_cases h : n = 20 ∧ d.devState = .stopped
  · rw [if_pos h, if_pos h.1, if_pos h.2]
  · rw [if_neg h]
    split_ifs with hn hs
    · exact absurd ⟨hn, hs⟩ h
    · rfl
    · rfl

theorem bcrWrite_portFrame (d : Dev) (n : Byte) (v : Half) : d.PortFrame (bcrWrite d n v) := by
  rw [bcrWrite_eq]
  exact {}

theorem portRow_portFrame (i : Instr) (s : State) : s.dev.PortFrame (portRow i s).2.dev := by
  cases i
  case rdpWw | rdpWd => exact csrWrite_portFrame ..
  case bdpWw | bdpWd => exact bcrWrite_portFrame ..
  case rapWw | rapWd => exact {}
  case resetRw | resetRd => exact devSReset_portFrame _
  case dwioEnter v =>
    have henter : s.dev.PortFrame { s.dev with dwio := true } := { dwio := fun _ => rfl }
    exact henter.trans (csrWrite_portFrame ..)
  all_goals exact .refl _

/-! ### Every port request -/

/-- A row changes the device and the count of RESET draws only. -/
theorem portRow_state (i : Instr) (s : State) :
    (portRow i s).2 = { s with dev := (portRow i s).2.dev, resetReads := (portRow i s).2.resetReads } := by
  cases i <;> rfl

/-- A port request changes the device within its frame, the count of RESET draws and the result only. -/
theorem exec_port_next {i : Instr} (hi : (encode i).fmt = .pio) {s : State} (hr : s.refusal = none) :
    ∃ d n r, exec i s = .next { s with dev := d, resetReads := n, result := r } ∧ s.dev.PortFrame d := by
  obtain ⟨r, e | e⟩ := exec_port_cases hi hr
  · exact ⟨s.dev, s.resetReads, r, e, .refl _⟩
  · rw [portRow_state] at e
    exact ⟨_, _, r, e, portRow_portFrame i s⟩

/-- Settles O18: what a port request can change (`exec_port_next`), field by field. -/
theorem portRequestFrame : Obligations.PortRequestFrame := by
  intro i s hi hr
  obtain ⟨d, n, r, e, h⟩ := exec_port_next hi hr
  exact ⟨_, e, rfl, rfl, rfl, rfl, hr, rfl, rfl, rfl, rfl, h.padr, h.ladrf, h.rdra, h.tdra, h.rlen, h.tlen, h.rxCurDev,
    h.txCurDev, h.dwio, h.csr0.babl, h.csr0.cerr, h.csr0.miss, h.csr0.merr, h.csr0.rint, h.csr0.tint, h.csr0.idon,
    h.mfco⟩

/-! ### An undecoded request (R173) -/

/-- The answer by the width of the access: byte, word, and dword for the two sizes left. -/
theorem undecodedAnswer_eq (w : Byte) : undecodedAnswer w = undecodedResult w := by
  unfold undecodedAnswer portAnswer undecodedResult sizeBytes
  split_ifs <;> rfl

/-- Settles O5: the decoder takes no word outside the map (`decodePio_undecoded`), and the request is answered so. -/
theorem undecodedRequestIsPerformed : Obligations.UndecodedRequestIsPerformed := by
  intro s w data rest hr ha hrows
  have hdecode : decodeRequest s.dev.dwio ⟨.pio, w :: data⟩ = .error (.undecoded w) := decodePio_undecoded hrows data
  rw [← undecodedAnswer_eq]
  exact (step_request hr ha).trans (runRequest_rejected (s := { s with agenda := rest }) hdecode)

/-! ### What is read and written (R123) -/

/-- Two bytes of the address PROM side by side, the lower offset lowest (R162). -/
theorem apromHalf_setWidth (p : Params) (off : BitVec 4) :
    (apromHalf p off).setWidth 32 =
      (p.aprom.get off.toFin).setWidth 32 ||| ((p.aprom.get (off + 1).toFin).setWidth 32 : Word) <<< 8 := by
  unfold apromHalf apromByte
  rw [BitVec.setWidth_append_eq_shiftLeft_setWidth_or, BitVec.or_comm]

/-- Four bytes of the address PROM, as two pairs side by side (R163). -/
theorem apromWord_eq (p : Params) (off : BitVec 4) :
    apromWord p off =
      (p.aprom.get off.toFin).setWidth 32 ||| ((p.aprom.get (off + 1).toFin).setWidth 32 : Word) <<< 8 |||
        ((p.aprom.get (off + 2).toFin).setWidth 32 : Word) <<< 16 |||
        ((p.aprom.get (off + 3).toFin).setWidth 32 : Word) <<< 24 := by
  have hlast : off + 2 + 1 = off + 3 := BitVec.add_assoc off 2 1
  have hpairs : apromWord p off =
      ((apromHalf p (off + 2)).setWidth 32 : Word) <<< 16 ||| (apromHalf p off).setWidth 32 :=
    (BitVec.setWidth_eq _).symm.trans BitVec.setWidth_append_eq_shiftLeft_setWidth_or
  rw [hpairs, apromHalf_setWidth, apromHalf_setWidth, hlast, BitVec.shiftLeft_or_distrib, ← BitVec.shiftLeft_add,
    BitVec.or_comm, ← BitVec.or_assoc]

/-- The low byte of the register data of a dword write is the dword's. -/
theorem registerData_low_byte (v : Word) : (registerData v).extractLsb' 0 8 = v.extractLsb' 0 8 :=
  BitVec.extractLsb'_extractLsb'_of_le (by decide)

theorem readBdp_eq (s : State) : readBdp s = if s.dev.rap = 20 then s.dev.swstyle.setWidth 32 else 0 := by
  unfold readBdp bcrRead
  split_ifs
  · exact BitVec.setWidth_setWidth (by decide)
  · rfl

/-! ### The rows

Each row is `readMeaning` or `writeMeaning` in its mode; what is left is to write its value or its effect as the model
does. -/

/-- Settles O12: the bytes of a wider read side by side (`apromHalf_setWidth`, `apromWord_eq`). -/
theorem apromReads : Obligations.ApromReads := by
  intro s off hr
  refine ⟨readMeaning_in_mode hr (modeAdmits_any _) .., fun _ => ?_, fun _ => ?_⟩
  · rw [← apromHalf_setWidth]
    exact readMeaning_in_mode hr (modeAdmits_any _) ..
  · rw [← apromWord_eq]
    exact readMeaning_in_mode hr (modeAdmits_any _) ..

/-- Settles O13. -/
theorem rapReadsAndWrites : Obligations.RapReadsAndWrites := by
  refine ⟨⟨rfl, rfl, fun _ => rfl, fun _ => rfl⟩, fun s hr => ⟨fun hm => ⟨?_, fun v => ?_⟩, fun hm => ⟨?_, fun v => ?_⟩⟩⟩
  · exact readMeaning_in_mode hr (modeAdmits_wio hm) ..
  · exact writeMeaning_in_mode hr (modeAdmits_wio hm) _
  · exact readMeaning_in_mode hr (modeAdmits_dwio hm) ..
  · rw [← registerData_low_byte]
    exact writeMeaning_in_mode hr (modeAdmits_dwio hm) _

/-- Settles O14. -/
theorem rdpReadsAndWrites : Obligations.RdpReadsAndWrites := by
  refine ⟨⟨rfl, rfl, fun _ => rfl, fun _ => rfl⟩, fun s hr => ⟨fun hm => ⟨?_, fun v => ?_⟩, fun hm => ⟨?_, fun v => ?_⟩⟩⟩
  · exact readMeaning_in_mode hr (modeAdmits_wio hm) ..
  · exact writeMeaning_in_mode hr (modeAdmits_wio hm) _
  · exact readMeaning_in_mode hr (modeAdmits_dwio hm) ..
  · exact writeMeaning_in_mode hr (modeAdmits_dwio hm) _

/-- Settles O15: BCR20 as it is read and written (`readBdp_eq`, `bcrWrite_eq`). -/
theorem bdpReadsAndWrites : Obligations.BdpReadsAndWrites := by
  refine ⟨⟨rfl, rfl, fun _ => rfl, fun _ => rfl⟩, fun s hr => ⟨fun hm => ⟨?_, fun v => ?_⟩, fun hm => ⟨?_, fun v => ?_⟩⟩⟩
  · rw [← readBdp_eq]
    exact readMeaning_in_mode hr (modeAdmits_wio hm) ..
  · rw [← bcrWrite_eq]
    exact writeMeaning_in_mode hr (modeAdmits_wio hm) _
  · rw [← readBdp_eq]
    exact readMeaning_in_mode hr (modeAdmits_dwio hm) ..
  · rw [← registerData_low_byte, ← bcrWrite_eq]
    exact writeMeaning_in_mode hr (modeAdmits_dwio hm) _

/-- Settles O16: the device is `devSReset`'s, whose CSR0 reads 0x0004 (`csr0Word_devSReset`). -/
theorem resetReadsReset : Obligations.ResetReadsReset := by
  refine ⟨⟨rfl, rfl⟩, fun s hr => ⟨csr0Word_devSReset s.dev, fun hm => ?_, fun hm => ?_⟩⟩
  · rw [← BitVec.setWidth_eq_extractLsb' (by decide)]
    exact readMeaning_in_mode hr (modeAdmits_wio hm) ..
  · exact readMeaning_in_mode hr (modeAdmits_dwio hm) ..

/-- Settles O17: `enterDwio` sets the mode before it performs the RDP write. -/
theorem dwioEnterSwitchesAndWrites : Obligations.DwioEnterSwitchesAndWrites := fun _ _ hr hm =>
  writeMeaning_in_mode hr (modeAdmits_wio hm) _

end Sys2Proof.Machine
end

section
/-!
PROOF. Proofs of the statements of 41_csr_file.md: what every CSR reads as and the interrupt line (O20), the
acknowledge, STOP and the commands of a CSR0 write (O21, O22), and the writes of the other CSRs (O23).
-/

namespace Sys2Proof.Machine

/-! ### What RDP reads (R24, R25, R31, R38) -/

theorem getLsbD_csrRead_intr (d : Dev) : (csrRead d 0).getLsbD 7 = intrBit d :=
  (getLsbD_csr0Word d 7).trans (by simp)

theorem getLsbD_csrRead_iena (d : Dev) : (csrRead d 0).getLsbD 6 = d.csr0.iena :=
  (getLsbD_csr0Word d 6).trans (by simp)

theorem getLsbD_csrRead_stop (d : Dev) : (csrRead d 0).getLsbD 2 = true ↔ d.devState = .stopped := by
  rw [csrRead_zero, getLsbD_csr0Word]
  simp [stopBit]

/-- The interrupt line is INTR and IENA as CSR0 shows them (R38). -/
theorem irq_eq_csr0_bits (d : Dev) : irq d = ((csrRead d 0).getLsbD 7 && (csrRead d 0).getLsbD 6) := by
  rw [getLsbD_csrRead_intr, getLsbD_csrRead_iena, irq]

/-- A number that names no CSR reads 0 (R31). -/
theorem csrRead_unimplemented (d : Dev) {n : Byte} (h0 : n ≠ 0) (h1 : n ≠ 1) (h2 : n ≠ 2) (h4 : n ≠ 4) (h15 : n ≠ 15)
    (h112 : n ≠ 112) : csrRead d n = 0 := by
  simp only [csrRead, if_neg h0, if_neg h1, if_neg h2, if_neg h4, if_neg h15, if_neg h112]

/-- Settles O20: CSR0 and CSR4 bit by bit (`getLsbD_csr0Word`, `getLsbD_csr4Word`), and the interrupt line, which the
invariant gives by R25's formula (`irq_eq_sources`). -/
theorem csrReadValues : Obligations.CsrReadValues := by
  intro d
  refine ⟨?err, ?babl, ?cerr, ?miss, ?merr, ?rint, ?tint, ?idon, getLsbD_csrRead_intr d, getLsbD_csrRead_iena d,
    ?rxon, ?txon, ?tdmd, getLsbD_csrRead_stop d, ?strt, ?init, rfl, rfl, rfl, rfl, fun k => ?csr4,
    fun _ => csrRead_unimplemented d, irq_eq_csr0_bits d, fun hinv => irq_eq_sources fun ha => (hinv.atStop ha).2⟩
  case csr4 => exact (getLsbD_csr4Word d k).trans (congrArg₂ or (Bool.and_comm ..) (Bool.and_comm ..))
  all_goals exact (getLsbD_csr0Word d _).trans (by simp [errBit])

/-! ### A CSR0 write with STOP (R203, R210) -/

/-- STOP suppresses every other command, and what the write acknowledges `stop()` clears in any case. -/
theorem csrWrite_zero_stop (d : Dev) {v : Half} (hv : v.getLsbD 2 = true) : csrWrite d 0 v = devStop d := by
  show csr0Write d v = _
  simp only [csr0Write, hv, if_true]
  rfl

theorem irq_devStop (d : Dev) : irq (devStop d) = false := Bool.and_false _

/-! ### A CSR0 write without STOP (R202, R204 to R207) -/

/-- The device to which a CSR0 write without STOP gives its commands: the flags are acknowledged and IENA is taken. -/
def acknowledged (d : Dev) (v : Half) : Dev :=
  { d with csr0 := { acknowledge d.csr0 v with iena := v.getLsbD 6 }, atStop := false }

theorem csrWrite_zero_commands (d : Dev) {v : Half} (hv : v.getLsbD 2 = false) :
    csrWrite d 0 v = commandTdmd (commandInitStrt (acknowledged d v) v) v := by
  show csr0Write d v = _
  simp only [csr0Write, hv, Bool.false_eq_true, if_false]
  rfl

/-- TDMD, as one update: it is kept, and set by a demand on a RUNNING device with TXON (R207). -/
theorem commandTdmd_eq (d : Dev) (v : Half) :
    commandTdmd d v = { d with csr0 := { d.csr0 with
      tdmd := d.csr0.tdmd || (v.getLsbD 3 && d.devState == .running && d.csr0.txon) } } := by
  unfold commandTdmd
  split_ifs with h
  · rw [h, Bool.or_true]
  · rw [Bool.eq_false_iff.mpr h, Bool.or_false]

/-- INIT on a STOPPED device remembers a STRT of the same write (R205). -/
theorem commandInitStrt_init {d : Dev} {v : Half} (hs : d.devState = .stopped) (hinit : v.getLsbD 0 = true) :
    commandInitStrt d v =
      { d with csr0 := { d.csr0 with init := true }, devState := .initPending, pendingStart := v.getLsbD 1 } :=
  if_pos (by rw [hinit, hs]; rfl)

/-- STRT starts an INITED device (R206, R209). -/
theorem commandInitStrt_start {d : Dev} {v : Half} (hs : d.devState = .inited) (hstrt : v.getLsbD 1 = true) :
    commandInitStrt d v = devStart d := by
  simp [commandInitStrt, hs, hstrt]

theorem commandInitStrt_without_command {d : Dev} {v : Half} (hinit : (v.getLsbD 0 && d.devState == .stopped) = false)
    (hstrt : v.getLsbD 1 = false) : commandInitStrt d v = d := by
  unfold commandInitStrt
  rw [hinit, hstrt]
  rfl

/-- STRT is remembered while INIT_PENDING, and INIT is ignored there (R205, R206). -/
theorem commandInitStrt_pending {d : Dev} (hs : d.devState = .initPending) (v : Half) :
    commandInitStrt d v = { d with pendingStart := d.pendingStart || v.getLsbD 1 } := by
  cases hstrt : v.getLsbD 1 with
  | true => simp [commandInitStrt, hs, hstrt]
  | false => rw [commandInitStrt_without_command (by simp [hs]) hstrt, Bool.or_false]

/-- Every other INIT or STRT has no effect: INIT outside STOPPED, STRT of a STOPPED or a RUNNING device (R205, R206). -/
theorem commandInitStrt_ignored {d : Dev} {v : Half}
    (h : (d.devState = .stopped ∧ v.getLsbD 0 = false) ∨ (d.devState = .inited ∧ v.getLsbD 1 = false) ∨
      d.devState = .running) : commandInitStrt d v = d := by
  rcases h with ⟨hs, hinit⟩ | ⟨hs, hstrt⟩ | hs
  · simp [commandInitStrt, hs, hinit, -BitVec.getLsbD_eq_getElem]
  · exact commandInitStrt_without_command (by simp [hs]) hstrt
  · simp [commandInitStrt, hs]

/-- INIT and STRT change the run state, `pendingStart` and four bits of CSR0 only. -/
theorem commandInitStrt_frame (d : Dev) (v : Half) :
    ∃ devState pendingStart init strt rxon txon, commandInitStrt d v =
      { d with devState, pendingStart, csr0 := { d.csr0 with init, strt, rxon, txon } } := by
  rcases commandInitStrt_cases d v with ⟨_, _, e⟩ | ⟨_, _, e⟩ | ⟨_, _, e⟩ | e
  all_goals exact ⟨_, _, _, _, _, _, e⟩

/-- A CSR0 write without STOP acknowledges the flags, takes IENA, ends the STOP value of CSR0, and else changes the run
state, `pendingStart` and the command bits of CSR0 only. -/
theorem csrWrite_zero_frame (d : Dev) {v : Half} (hv : v.getLsbD 2 = false) :
    ∃ devState pendingStart init strt rxon txon tdmd, csrWrite d 0 v =
      { d with
        devState, pendingStart
        atStop := false
        csr0 := { acknowledge d.csr0 v with iena := v.getLsbD 6, init, strt, rxon, txon, tdmd } } := by
  obtain ⟨_, _, _, _, _, _, e⟩ := commandInitStrt_frame (acknowledged d v) v
  rw [csrWrite_zero_commands d hv, commandTdmd_eq, e]
  exact ⟨_, _, _, _, _, _, _, rfl⟩

/-- Settles O21: with STOP the write is `devStop` (`csrWrite_zero_stop`), without it what `csrWrite_zero_frame` says. -/
theorem csr0StopAndAcknowledge : Obligations.Csr0StopAndAcknowledge := by
  intro d v
  refine ⟨fun hv => ?stop, fun hv => ?noStop, rfl⟩
  case stop =>
    rw [csrWrite_zero_stop d hv]
    exact ⟨rfl, csr0Word_devStop d, irq_devStop d⟩
  case noStop =>
    obtain ⟨_, _, _, _, _, _, _, e⟩ := csrWrite_zero_frame d hv
    rw [e]
    exact ⟨rfl, rfl, rfl, rfl, rfl, rfl, rfl, rfl, rfl⟩

/-- Settles O22: one equation of `commandInitStrt` for each run state; TDMD is `commandTdmd_eq` on what it leaves. -/
theorem csr0Commands : Obligations.Csr0Commands := by
  intro d v hv
  rw [csrWrite_zero_commands d hv, commandTdmd_eq]
  refine ⟨fun hs hinit => ?init, fun hs hstrt => ?start, fun hs => ?pending, fun h => ?ignored, ?tdmd⟩
  case init =>
    rw [commandInitStrt_init (d := acknowledged d v) hs hinit]
    exact ⟨rfl, rfl, rfl, rfl, rfl, rfl⟩
  case start =>
    rw [commandInitStrt_start (d := acknowledged d v) hs hstrt]
    exact ⟨rfl, rfl, rfl, rfl, rfl, rfl⟩
  case pending =>
    rw [commandInitStrt_pending (d := acknowledged d v) hs]
    exact ⟨hs, rfl, rfl, rfl, rfl, rfl⟩
  case ignored =>
    rw [commandInitStrt_ignored (d := acknowledged d v) h]
    exact ⟨rfl, rfl, rfl, rfl, rfl, rfl⟩
  case tdmd =>
    obtain ⟨_, _, _, _, _, _, e⟩ := commandInitStrt_frame (acknowledged d v) v
    rw [e]
    rfl

/-! ### Writes of the other CSRs (R211 to R214, R31) -/

/-- CSR112 and every number that names no CSR ignore a write (R214, R31). -/
theorem csrWrite_ignored (d : Dev) {n : Byte} (h0 : n ≠ 0) (h1 : n ≠ 1) (h2 : n ≠ 2) (h4 : n ≠ 4) (h15 : n ≠ 15)
    (v : Half) : csrWrite d n v = d := by
  simp only [csrWrite, if_neg h0, if_neg h1, if_neg h2, if_neg h4, if_neg h15]

/-- Settles O23: CSR1, CSR2 and CSR15 are each written under the one test for STOPPED, CSR4 under none. -/
theorem csrWrites : Obligations.CsrWrites := fun d v =>
  ⟨fun hs => ⟨if_pos hs, if_pos hs, if_pos hs⟩, fun hs => ⟨if_neg hs, if_neg hs, if_neg hs⟩, rfl,
    fun _ h0 h1 h2 h4 h15 => csrWrite_ignored d h0 h1 h2 h4 h15 v⟩

end Sys2Proof.Machine
end

section
/-!
PROOF. Proofs of the statements of 42_descriptor_ring.md: the ownership rule (O25), RECEIVE (O50, O51), and a payload
posted by TRANSMIT and sent by the device (O52).
-/

namespace Sys2Proof.Machine

/-! ### Ownership (R251, R252, R253) -/

theorem releaseDesc_violation {s : State} {d : Nat} (hs : s.dev.devState ≠ .stopped) (ho : deviceOwns s.mem d = true)
    (ring : Ring) (i : Nat) (st : Half) :
    releaseDesc ring i d st s = raiseFault (.protocolViolation .doubleRelease ring i) s := if_pos ⟨hs, ho⟩

theorem ctlStore_violation {s : State} {d : Nat} (hs : s.dev.devState ≠ .stopped) (ho : deviceOwns s.mem d = true)
    (ring : Ring) (i a : Nat) (bytes : List Byte) :
    ctlStore ring i d a bytes s = raiseFault (.protocolViolation .touchDeviceOwned ring i) s := if_pos ⟨hs, ho⟩

theorem claimDesc_violation {s : State} {d : Nat} (ho : deviceOwns s.mem d = false) (ring : Ring) (i : Nat)
    (st : Half) : claimDesc ring i d st s = raiseFault (.protocolViolation .doubleClaim ring i) s :=
  if_neg (Bool.eq_false_iff.mp ho)

theorem claimDesc_allowed {s : State} {d : Nat} (ho : deviceOwns s.mem d = true) (ring : Ring) (i : Nat) (st : Half) :
    claimDesc ring i d st s = putStatus d st s := if_pos ho

/-- Settles O25: `releaseDesc`, `ctlStore` and `claimDesc` each make one test, which decides between the mark and the
write. -/
theorem ownershipViolationsAreDetected : Obligations.OwnershipViolationsAreDetected := fun _ ring i _ a st bytes =>
  ⟨fun hs ho => ⟨releaseDesc_violation hs ho ring i st, ctlStore_violation hs ho ring i a bytes⟩,
    fun h => ⟨releaseDesc_allowed h ring i st, ctlStore_allowed h ring i a bytes⟩,
    fun ho => claimDesc_violation ho ring i st, fun ho => claimDesc_allowed ho ring i st⟩

/-! ### What RECEIVE makes of a slot (R256, R257) -/

/-- The parameters' range keeps every buffer below the longest frame a device accepts (R6, R88). -/
theorem Params.bufferSize_le {p : Params} (h : p.wf = true) : p.bufferSize ≤ 4095 := by
  simp only [Params.wf, Bool.and_eq_true, decide_eq_true_eq] at h
  exact h.2

section TakeSlot

variable {p : Params} {m : Memory} {buf : Nat} {st bc : Half} {c : Counters}

theorem takeSlot_error (herr : st.getLsbD 14 = true) :
    takeSlot p m buf st bc c = (.dropped, classifyRxError st c) := if_pos herr

theorem takeSlot_unsupported (herr : st.getLsbD 14 = false) (hw : wholeFrame st = false) :
    takeSlot p m buf st bc c =
      (.dropped, { c with rxUnsupported := c.rxUnsupported + 1, rxDropped := c.rxDropped + 1 }) := by
  simp only [takeSlot, herr, hw, Bool.false_eq_true, if_false]

theorem takeSlot_badLength (herr : st.getLsbD 14 = false) (hw : wholeFrame st = true)
    (hn : ¬ (1 ≤ dec16 bc ∧ dec16 bc ≤ p.bufferSize)) :
    takeSlot p m buf st bc c = (.dropped, { c with rxBuff := c.rxBuff + 1, rxDropped := c.rxDropped + 1 }) := by
  simp only [takeSlot, herr, hw, Bool.false_eq_true, if_false, if_true, if_neg hn]

theorem takeSlot_packet (herr : st.getLsbD 14 = false) (hw : wholeFrame st = true)
    (hn : 1 ≤ dec16 bc ∧ dec16 bc ≤ p.bufferSize) :
    takeSlot p m buf st bc c =
      (.packet (readBytes m buf (dec16 bc).toNat), { c with rxDelivered := c.rxDelivered + 1 }) := by
  simp only [takeSlot, herr, hw, Bool.false_eq_true, if_false, if_true, if_pos hn]

end TakeSlot

/-! ### RECEIVE (R256) -/

/-- The states in which R310 allows RECEIVE. -/
theorem receives_iff {l : Lifecycle} : receives l = true ↔ l = .initializing ∨ l = .running ∨ l = .disabled := by
  cases l <;> simp [receives]

section Receive

variable {s : State} {base : Nat} (hr : s.refusal = none) (hh : s.Holds base)
  (hl : s.ctl.lc = .initializing ∨ s.ctl.lc = .running ∨ s.ctl.lc = .disabled)

include hr hh hl

/-- RECEIVE in a legal state is one take from the slot at the cursor. -/
theorem exec_receive_legal :
    exec .receive s = .next { (takeNext base s).2 with result := takeResult (takeNext base s).1 } := by
  show execReceive s = _
  rw [execReceive, whenLive_live hr, receiveStep, if_pos (receives_iff.mpr hl), withRegion_holds hh]
  rfl

/-- RECEIVE on a device-owned slot finds nothing. -/
theorem exec_receive_empty (ho : deviceOwns s.mem (rxDescAddr base s.ctl.rxCur) = true) :
    exec .receive s = .next { s with result := .empty } := by
  rw [exec_receive_legal hr hh hl, takeNext_empty ho]
  rfl

/-- RECEIVE on a software-owned slot answers what `takeSlot` makes of it, arms it again and moves the cursor. -/
theorem exec_receive_taken (ho : deviceOwns s.mem (rxDescAddr base s.ctl.rxCur) = false) {r : RxTake} {c : Counters}
    (htaken : taken base s = (r, c)) :
    ∃ t, exec .receive s = .next t ∧
      t = { s with
        ctl := { s.ctl with rxCur := (s.ctl.rxCur + 1) % rxLen s.cfg, counters := c }
        result := takeResult r
        mem := t.mem } ∧
      RxArmed s.cfg base s.ctl.rxCur t.mem ∧ SameOutside (rxDescAddr base s.ctl.rxCur) 16 s.mem t.mem := by
  refine ⟨_, exec_receive_legal hr hh hl, ?_⟩
  rw [takeNext_owned ho, htaken]
  exact ⟨rfl, putDesc_rxArmed .., fun _ hx => putDesc_outside _ _ _ _ _ hx⟩

end Receive

/-- A completed frame is taken as its payload. -/
theorem RxHolds.taken_eq {s : State} {base : Nat} {b : List Byte}
    (h : RxHolds s.cfg base s.ctl.rxCur s.mem b) (hwf : s.cfg.wf = true) :
    taken base s = (.packet b, { s.ctl.counters with rxDelivered := s.ctl.counters.rxDelivered + 1 }) := by
  obtain ⟨hstatus, hcount, hnonempty, hfits, hbytes⟩ := h
  have hsize := Params.bufferSize_le hwf
  have hlen : dec16 (neg16 b.length) = b.length := dec16_neg16 (by omega)
  unfold taken
  rw [hstatus, hcount, takeSlot_packet (by decide) (by decide) (by omega), hlen, Int.toNat_natCast, hbytes]

/-- Settles O50: the slot of a completed frame is software-owned, and `takeSlot` answers its payload. -/
theorem receiveDeliversTheFrame : Obligations.ReceiveDeliversTheFrame := by
  intro s base b hr hh hwf hl hframe
  have ho : deviceOwns s.mem (rxDescAddr base s.ctl.rxCur) = false := by
    rw [deviceOwns, hframe.status]
    decide
  exact exec_receive_taken hr hh hl ho (hframe.taken_eq hwf)

/-- Settles O51: each cause of a drop is one branch of `takeSlot`. -/
theorem receiveDropsOrFindsNothing : Obligations.ReceiveDropsOrFindsNothing := by
  intro s base hr hh hl st n c up drops
  refine ⟨exec_receive_empty hr hh hl, fun ho herr => ?error, fun ho herr hw => ?unsupported,
    fun ho herr hstp henp hn => ?badLength⟩
  case error => exact exec_receive_taken hr hh hl ho (takeSlot_error herr)
  case unsupported =>
    exact exec_receive_taken hr hh hl ho (takeSlot_unsupported herr (Bool.and_eq_false_iff.mpr hw))
  case badLength =>
    have hlen : ¬ (1 ≤ n ∧ n ≤ s.cfg.bufferSize) := by omega
    exact exec_receive_taken hr hh hl ho (takeSlot_badLength herr (Bool.and_eq_true_iff.mpr ⟨hstp, henp⟩) hlen)

/-! ### Ranges of the DMA window (R360) -/

theorem windowCovers_iff {w : List (Nat × Nat)} {a n : Nat} :
    windowCovers w a n = true ↔ ∀ x, a ≤ x → x < a + n → windowHas w x = true := by
  induction n generalizing a with
  | zero => exact ⟨fun _ x _ _ => by omega, fun _ => rfl⟩
  | succ n ih =>
    rw [windowCovers, Bool.and_eq_true, ih]
    constructor
    · rintro ⟨hfirst, hrest⟩ x h1 h2
      rcases Nat.eq_or_lt_of_le h1 with rfl | h1
      · exact hfirst
      · exact hrest x h1 (by omega)
    · exact fun h => ⟨h a (by omega) (by omega), fun x h1 h2 => h x (by omega) (by omega)⟩

/-- A range inside one the device may access is one it may access. -/
theorem dmaOk_mono {p : Params} {a n a' n' : Nat} (h : dmaOk p a n = true) (h1 : a ≤ a') (h2 : a' + n' ≤ a + n) :
    dmaOk p a' n' = true := by
  simp only [dmaOk, Bool.and_eq_true, decide_eq_true_eq, windowCovers_iff] at h ⊢
  obtain ⟨htop, hwindow⟩ := h
  exact ⟨by omega, fun x hx1 hx2 => hwindow x (by omega) (by omega)⟩

/-- The device may access the whole of a region the platform may return (R312). -/
theorem dmaOk_of_regionOk {p : Params} {base : Nat} (h : regionOk p base = true) :
    dmaOk p base (regionSize p) = true := (Bool.and_eq_true_iff.mp h).2

/-- The device may access TX descriptor `i` of such a region. -/
theorem dmaOk_txDesc {p : Params} {base i : Nat} (h : regionOk p base = true) (hi : i < txLen p) :
    dmaOk p (txDescAddr p base i) 16 = true := by
  have h1 := txDesc_start p base i
  have h2 := txDesc_end hi base
  have h3 := rxBuf_le_txBuf p
  have h4 := txBuf_le_region p
  exact dmaOk_mono (dmaOk_of_regionOk h) (by omega) (by omega)

/-- The device may access TX buffer `i` of such a region. -/
theorem dmaOk_txBuf {p : Params} {base i n : Nat} (h : regionOk p base = true) (hi : i < txLen p)
    (hn : n ≤ p.bufferSize) : dmaOk p (txBufAddr p base i) n = true := by
  have h1 := txBuf_start p base i
  have h2 := txBuf_end hi base
  exact dmaOk_mono (dmaOk_of_regionOk h) (by omega) (by omega)

/-- TX descriptor `i` ends before its buffer. -/
theorem txDesc_le_txBuf {p : Params} {i : Nat} (h : i < txLen p) (base : Nat) :
    txDescAddr p base i + 16 ≤ txBufAddr p base i := by
  have h1 := txDesc_end h base
  have h2 := rxBuf_le_txBuf p
  have h3 := txBuf_start p base i
  omega

/-! ### TRANSMIT with a free slot (R320, R258) -/

/-- What a posted TX slot holds. -/
theorem putDesc_txFilled {p : Params} {base i : Nat} (b : List Byte) (m : Memory)
    (h : txDescAddr p base i + 16 ≤ txBufAddr p base i) :
    TxFilled p base i b
      (putDesc (txDescAddr p base i) (BitVec.ofNat 32 (txBufAddr p base i)) (neg16 b.length) 0x8300
        (writeBytes m (txBufAddr p base i) b)) where
  status := putDesc_status ..
  byteCount := putDesc_byteCount ..
  bufferAddress := putDesc_bufferAddress ..
  link := putDesc_link ..
  reserved := putDesc_reserved ..
  bytes := by
    rw [readBytes_congr _ _ fun y h1 _ => putDesc_outside _ _ _ _ _ (by omega), readBytes_writeBytes_same]

/-- The device after the doorbell: IENA set, nothing acknowledged, TDMD taken by a RUNNING transmitter (R207, R320). -/
def rung (d : Dev) : Dev :=
  { d with
    atStop := false
    csr0 := { d.csr0 with iena := true, tdmd := d.csr0.tdmd || (d.devState == .running && d.csr0.txon) } }

theorem csrWrite_doorbell (d : Dev) : csrWrite d 0 0x0048 = rung d := by
  rw [csrWrite_zero_commands d (by decide), commandInitStrt_without_command (by simp) (by decide), commandTdmd_eq]
  simp [rung, acknowledged, acknowledge]

/-- The doorbell, undisturbed (R320). -/
theorem setCsr_doorbell {s : State} {m : AccessMode} (ha : s.Alone) (hm : s.dev.dwio = (m == .dword))
    (k : State → Out) : setCsr m 0 0x0048 s k = k { s with dev := rung { s.dev with rap := 0 } } := by
  have hrap : rapData (registerData 0) = 0 := rfl
  have hdata : registerData 0x0048 = 0x0048 := rfl
  rw [setCsr_alone hm ha.undisturbed ha.live]
  simp only [writeRdp, writeRap, hrap, hdata, csrWrite_doorbell]

/-- TRANSMIT with a free slot, undisturbed: the post, then the doorbell. -/
theorem exec_transmit_posts {s : State} {m : AccessMode} {base : Nat} {b : List Byte} (ha : s.Alone) (hf : s.Fits m)
    (hh : s.Holds base) (hl : transmits s.ctl.lc = true) (hlen : 1 ≤ b.length ∧ b.length ≤ s.cfg.bufferSize)
    (ho : deviceOwns s.mem (txDescAddr s.cfg base s.ctl.txCur) = false) :
    ∃ t, exec (.transmit b) s = .next t ∧
      t = { s with
        dev := rung { s.dev with rap := 0 }
        ctl := { s.ctl with
          txCur := (s.ctl.txCur + 1) % txLen s.cfg
          counters := { s.ctl.counters with txPosted := s.ctl.counters.txPosted + 1 } }
        result := .ok
        mem := t.mem } ∧
      TxFilled s.cfg base s.ctl.txCur b t.mem := by
  have hapart := txDesc_le_txBuf hh.txCur base
  have hpost := txPost_allowed ho b hapart
  refine ⟨{ (txPost base b s).2 with dev := rung { s.dev with rap := 0 }, result := .ok }, ?run, ?state, ?filled⟩
  case run =>
    have hok : (txPost base b s).1 = true := by rw [hpost]
    have halone : (txPost base b s).2.Alone := ⟨by simpa using ha.live, by simpa using ha.undisturbed⟩
    show execTransmit b s = _
    rw [execTransmit, whenLive_live ha.live, if_pos hl, if_pos hlen, withAccessMode_fits hf, withRegion_holds hh]
    dsimp only
    rw [if_pos hok, boundary_alone halone.undisturbed halone.live, setCsr_doorbell halone (by simpa using hf.decoder),
      finish_eq, txPost_dev]
  case state => rw [hpost]
  case filled =>
    rw [hpost]
    exact putDesc_txFilled b s.mem hapart

/-! ### The device sends a posted frame (R365) -/

theorem deviceLength_neg16 {n : Nat} (h1 : 1 ≤ n) (h2 : n ≤ 4095) : deviceLength (neg16 n) = some n := by
  have hdec : dec16 (neg16 n) = n := dec16_neg16 (by omega)
  rw [deviceLength, hdec, if_pos (by omega), Int.toNat_natCast]

theorem txReturn_mem_owned {s : State} {d : Nat} (ho : deviceOwns s.mem d = true) (i : Nat) (st : Half) :
    (txReturn i d st s).mem = write16 s.mem d st := by
  rw [txReturn, claimDesc_allowed ho]
  rfl

/-- A descriptor with one whole frame, sent with outcome OK: the frame is on the wire and the descriptor comes back
without an error. -/
theorem txDescriptor_ok {s : State} {d n : Nat} (i : Nat) (c : Bool) (ho : deviceOwns s.mem d = true)
    (hw : wholeFrame (read16 s.mem d) = true) (hn : deviceLength (read16 s.mem (d + 2)) = some n)
    (hbuf : dmaOk s.cfg (read32 s.mem (d + 4)).toNat n = true) :
    (txDescriptor .ok c i d s).env.txOut = s.env.txOut ++ [readBytes s.mem (read32 s.mem (d + 4)).toNat n] ∧
    (txDescriptor .ok c i d s).mem = write16 s.mem d (framing (read16 s.mem d)) := by
  simp only [txDescriptor, hw, hn, hbuf, Bool.not_true, Bool.false_eq_true, if_false, txOutcomeStep, txReturn_env]
  exact ⟨rfl, txReturn_mem_owned (by exact ho) _ _⟩

/-- A poll of a device-owned descriptor handles it, TDMD cleared. -/
theorem devTx_owned {s : State} {d : Nat} (o : TxOutcome) (c : Bool)
    (hd : s.dev.tdra.toNat + 16 * s.dev.txCurDev = d) (hok : dmaOk s.cfg d 16 = true)
    (ho : deviceOwns s.mem d = true) :
    devTx o c s = txDescriptor o c s.dev.txCurDev d
      { s with dev := { s.dev with csr0 := { s.dev.csr0 with tdmd := false } } } := by
  subst hd
  simp only [devTx, hok, ho, Bool.not_true, Bool.false_eq_true, if_false]

section TxFilled

variable {p : Params} {base i : Nat} {b : List Byte} {m : Memory}

theorem TxFilled.owned (h : TxFilled p base i b m) : deviceOwns m (txDescAddr p base i) = true := by
  rw [deviceOwns, h.status]
  decide

theorem TxFilled.whole (h : TxFilled p base i b m) : wholeFrame (read16 m (txDescAddr p base i)) = true := by
  rw [h.status]
  decide

theorem TxFilled.length_eq (h : TxFilled p base i b m) (h1 : 1 ≤ b.length) (h2 : b.length ≤ 4095) :
    deviceLength (read16 m (txDescAddr p base i + 2)) = some b.length := by
  rw [h.byteCount, deviceLength_neg16 h1 h2]

/-- The buffer's address, where the buffer lies below the top of memory, is the one the descriptor holds. -/
theorem TxFilled.bufferAddress_toNat (h : TxFilled p base i b m) (htop : txBufAddr p base i < memoryTop) :
    (read32 m (txDescAddr p base i + 4)).toNat = txBufAddr p base i := by
  rw [h.bufferAddress, BitVec.toNat_ofNat]
  exact Nat.mod_eq_of_lt htop

end TxFilled

/-- A poll with outcome OK of a slot as `txPost` left it: the payload is on the wire and still in the buffer, and the
slot is software-owned without an error. -/
theorem devTx_ok_filled {s : State} {base i : Nat} {b : List Byte} (c : Bool)
    (hfilled : TxFilled s.cfg base i b s.mem) (hd : s.dev.tdra.toNat + 16 * s.dev.txCurDev = txDescAddr s.cfg base i)
    (hi : i < txLen s.cfg) (hwf : s.cfg.wf = true) (hregion : regionOk s.cfg base = true)
    (h1 : 1 ≤ b.length) (h2 : b.length ≤ s.cfg.bufferSize) :
    (devTx .ok c s).env.txOut = s.env.txOut ++ [b] ∧
    readBytes (devTx .ok c s).mem (txBufAddr s.cfg base i) b.length = b ∧
    read16 (devTx .ok c s).mem (txDescAddr s.cfg base i) = 0x0300 := by
  have hlen : b.length ≤ 4095 := h2.trans (Params.bufferSize_le hwf)
  have hdma := dmaOk_txBuf hregion hi h2
  have htop := dmaOk_top hdma
  have haddr := hfilled.bufferAddress_toNat (by omega)
  have hapart := txDesc_le_txBuf hi base
  rw [devTx_owned .ok c hd (dmaOk_txDesc hregion hi) hfilled.owned]
  obtain ⟨hsent, hmem⟩ := txDescriptor_ok
    (s := { s with dev := { s.dev with csr0 := { s.dev.csr0 with tdmd := false } } }) s.dev.txCurDev c hfilled.owned
    hfilled.whole (hfilled.length_eq h1 hlen) (by rw [haddr]; exact hdma)
  refine ⟨?sent, ?buffer, ?status⟩
  case sent => rw [hsent, haddr, hfilled.bytes]
  case buffer =>
    rw [hmem, readBytes_congr _ _ fun y hy _ => readByte_write16_outside _ _ _ _ (by omega), hfilled.bytes]
  case status =>
    rw [hmem, read16_write16, hfilled.status]
    decide

/-- Settles O52: TRANSMIT leaves the slot filled (`exec_transmit_posts`), and the poll that follows finds it so
(`devTx_ok_filled`). -/
theorem transmitRoundTrip : Obligations.TransmitRoundTrip := by
  intro s m base b c ha hf hh hwf hregion hnone hl hrun htxon htdra hcur h1 h2 ho
  obtain ⟨t, hexec, ht, hfilled⟩ := exec_transmit_posts ha hf hh (by rw [hl]; rfl) ⟨h1, h2⟩ ho
  have hcfg : t.cfg = s.cfg := by rw [ht]
  have hsent : t.env.txOut = s.env.txOut := by rw [ht]
  have hrefusal : t.refusal = none := by rw [ht]; exact ha.live
  have hfreed : t.ctl.freed = none := by rw [ht]; exact hnone
  have hpoll : t.dev.devState = .running ∧ t.dev.csr0.txon = true := by rw [ht]; exact ⟨hrun, htxon⟩
  have hdesc : t.dev.tdra.toNat + 16 * t.dev.txCurDev = txDescAddr s.cfg base s.ctl.txCur := by
    rw [ht]
    show s.dev.tdra.toNat + 16 * s.dev.txCurDev = _
    rw [htdra, hcur]
    rfl
  refine ⟨t, hexec, ?_⟩
  rw [agentStep_live hrefusal (barred_of_freed_none _ hfreed), takeStep, if_pos hpoll, ← hsent, ← hcfg]
  rw [← hcfg] at hfilled hdesc hregion hwf h2
  exact devTx_ok_filled c hfilled hdesc (by rw [hcfg]; exact hh.txCur) hwf hregion h1 h2

end Sys2Proof.Machine
end

section
/-!
PROOF. Proofs of the statements of 43_buffer_manager.md about the initialization block: the bytes that
`writeInitBlock` leaves (R291) are those the device's fetch latches (R362).
-/

namespace Sys2Proof.Machine

/-! ### Values read from their bytes (R80, R91) -/

theorem read16_of_readBytes {m : Memory} {a : Nat} {v : Half} (h : readBytes m a 2 = halfBytes v) :
    read16 m a = v := by
  obtain ⟨h0, h1⟩ : readByte m a = v.extractLsb' 0 8 ∧ readByte m (a + 1) = v.extractLsb' 8 8 := by
    simpa [readBytes, halfBytes] using h
  rw [read16, h0, h1, half_of_bytes]

theorem read32_of_readBytes {m : Memory} {a : Nat} {v : Word} (h : readBytes m a 4 = wordBytes v) :
    read32 m a = v := by
  obtain ⟨h0, h1, h2, h3⟩ : readByte m a = v.extractLsb' 0 8 ∧ readByte m (a + 1) = v.extractLsb' 8 8 ∧
      readByte m (a + 2) = v.extractLsb' 16 8 ∧ readByte m (a + 3) = v.extractLsb' 24 8 := by
    simpa [readBytes, wordBytes] using h
  have hword := word_of_bytes v
  rw [BitVec.append_assoc] at hword
  rw [read32, read16, read16, h0, h1, h2, h3]
  exact hword

/-- The octets of a station address, put together again. -/
theorem addressOf_of_readBytes {m : Memory} {a : Nat} {v : BitVec 48} (h : readBytes m a 6 = addressBytes v) :
    addressOf (readByte m a) (readByte m (a + 1)) (readByte m (a + 2)) (readByte m (a + 3)) (readByte m (a + 4))
      (readByte m (a + 5)) = v := by
  obtain ⟨h0, h1, h2, h3, h4, h5⟩ : readByte m a = v.extractLsb' 0 8 ∧ readByte m (a + 1) = v.extractLsb' 8 8 ∧
      readByte m (a + 2) = v.extractLsb' 16 8 ∧ readByte m (a + 3) = v.extractLsb' 24 8 ∧
      readByte m (a + 4) = v.extractLsb' 32 8 ∧ readByte m (a + 5) = v.extractLsb' 40 8 := by
    simpa [readBytes, addressBytes] using h
  rw [addressOf, h0, h1, h2, h3, h4, h5,
    BitVec.extractLsb'_append_extractLsb'_eq_extractLsb' (by rfl : 40 = 32 + 8),
    BitVec.extractLsb'_append_extractLsb'_eq_extractLsb' (by rfl : 32 = 24 + 8),
    BitVec.extractLsb'_append_extractLsb'_eq_extractLsb' (by rfl : 24 = 16 + 8),
    BitVec.extractLsb'_append_extractLsb'_eq_extractLsb' (by rfl : 16 = 8 + 8),
    BitVec.extractLsb'_append_extractLsb'_eq_extractLsb' (by rfl : 8 = 0 + 8)]
  exact BitVec.extractLsb'_eq_self

/-! ### The block as it is written (R291) -/

@[simp] theorem meetsFreed_writeInitBlock (base : Nat) (mac : BitVec 48) (s : State) (r : Nat × Nat) :
    meetsFreed (writeInitBlock base mac s) r = meetsFreed s r := by
  rw [meetsFreed, meetsFreed, writeInitBlock_ctl]

theorem writeInitBlock_initBlockAt (base : Nat) (mac : BitVec 48) (s : State) :
    InitBlockAt s.cfg base mac (writeInitBlock base mac s).mem := by
  rw [writeInitBlock_mem]
  have hbyte := fun k (hk : k < 32) => readByte_writeBytes_inside (initBlockBytes s.cfg base mac) s.mem base k hk
  have hbytes := fun k n (hk : k + n ≤ 32) =>
    readBytes_written s.mem base (initBlockBytes s.cfg base mac) k n hk
  exact {
    mode := read16_of_readBytes (hbytes 0 2 (by decide))
    rlen := hbyte 2 (by decide)
    tlen := hbyte 3 (by decide)
    padr := hbytes 4 6 (by decide)
    reserved := read16_of_readBytes (hbytes 10 2 (by decide))
    ladrf := by
      have hlow : read32 _ (base + 12) = 0 := read32_of_readBytes (hbytes 12 4 (by decide))
      have hhigh : read32 _ (base + 12 + 4) = 0 := read32_of_readBytes (hbytes 16 4 (by decide))
      rw [read64, hlow, hhigh]
      rfl
    rdra := read32_of_readBytes (hbytes 20 4 (by decide))
    tdra := read32_of_readBytes (hbytes 24 4 (by decide))
    padding := read32_of_readBytes (hbytes 28 4 (by decide)) }

/-! ### Ring lengths and aligned addresses (R90, R362) -/

/-- The parameters' range keeps both ring lengths within those a block can say (R6, R90). -/
theorem Params.logs_le {p : Params} (h : p.wf = true) : p.rxLog2 ≤ 9 ∧ p.txLog2 ≤ 9 := by
  simp only [Params.wf, Bool.and_eq_true, decide_eq_true_eq] at h
  obtain ⟨⟨⟨⟨-, hrx⟩, htx⟩, -⟩, -⟩ := h
  exact ⟨hrx, htx⟩

/-- The length field that the controller writes gives back the length of the ring it means. -/
theorem ringLength_of_log2 {l : Nat} (h : l ≤ 9) : ringLength ((BitVec.ofNat 8 l <<< 4).extractLsb' 4 4) = 2 ^ l := by
  have hfield : ((BitVec.ofNat 8 l <<< 4).extractLsb' 4 4).toNat = l := by
    simp only [BitVec.extractLsb'_toNat, BitVec.toNat_shiftLeft, BitVec.toNat_ofNat, Nat.shiftLeft_eq,
      Nat.shiftRight_eq_div_pow]
    omega
  rw [ringLength, hfield, Nat.min_eq_left h]

/-- A mask that clears at most the low four bits keeps a multiple of 16. -/
theorem and_mask_of_aligned {w mask : Word} (hmask : mask ||| 15 = BitVec.allOnes 32) (hw : w.toNat % 16 = 0) :
    w &&& mask = w := by
  have hlow : w &&& 15 = 0 := by
    apply BitVec.eq_of_toNat_eq
    rw [BitVec.toNat_and]
    exact (Nat.and_two_pow_sub_one_eq_mod w.toNat 4).trans hw
  calc w &&& mask = w &&& (mask ||| 15) := by rw [BitVec.and_or_distrib_left, hlow]; exact BitVec.or_zero.symm
    _ = w := by rw [hmask, BitVec.and_allOnes]

/-- An aligned address below the top of memory, held in a register and masked, is that address. -/
theorem toNat_ofNat_and_mask {mask : Word} (hmask : mask ||| 15 = BitVec.allOnes 32) {a : Nat} (ha : a % 16 = 0)
    (htop : a < memoryTop) : (BitVec.ofNat 32 a &&& mask).toNat = a := by
  have htoNat : (BitVec.ofNat 32 a).toNat = a := Nat.mod_eq_of_lt htop
  rw [and_mask_of_aligned hmask (by rw [htoNat]; exact ha), htoNat]

/-- The TX ring starts a whole number of descriptors after the RX ring. -/
theorem txRingOff_aligned (p : Params) : txRingOff p % 16 = 0 := by
  simp only [txRingOff, rxRingOff, initBlockSize, descSize]
  omega

/-- The RX ring, and with it the initialization block, comes before the TX ring. -/
theorem rxRing_le_txRing (p : Params) : rxRingOff ≤ txRingOff p := Nat.le_add_right _ _

/-- The TX ring starts inside the region. -/
theorem txRing_lt_region (p : Params) : txRingOff p < regionSize p := by
  have h1 := txDesc_start p 0 0
  have h2 := txDesc_end (txLen_pos p) 0
  have h3 := rxBuf_le_txBuf p
  have h4 := txBuf_le_region p
  omega

/-- A multiple of 16 into the region, up to the TX ring, keeps its address in a masked register. -/
theorem masked_region_address {mask : Word} (hmask : mask ||| 15 = BitVec.allOnes 32) {p : Params} {base off : Nat}
    (h : regionOk p base = true) (haligned : off % 16 = 0) (hle : off ≤ txRingOff p) :
    (BitVec.ofNat 32 (base + off) &&& mask).toNat = base + off := by
  have hbase : base % 16 = 0 := of_decide_eq_true (Bool.and_eq_true_iff.mp h).1
  have htop := regionOk_inside h
  have hring := txRing_lt_region p
  exact toNat_ofNat_and_mask hmask (by omega) (by omega)

/-- The device may access the initialization block of a region the platform may return. -/
theorem dmaOk_initBlock {p : Params} {base : Nat} (h : regionOk p base = true) : dmaOk p base 28 = true := by
  have hblock : 32 ≤ txRingOff p := rxRing_le_txRing p
  have hring := txRing_lt_region p
  exact dmaOk_mono (dmaOk_of_regionOk h) le_rfl (by omega)

/-! ### The fetch (R362) -/

/-- A fetch of a readable block without LOOP by a device of style 2 latches it. -/
theorem devInit_latches {s : State} {a : Nat} (ha : iadr s.dev = a) (hstyle : s.dev.swstyle = 2)
    (hdma : dmaOk s.cfg a 28 = true) (hloop : (read16 s.mem a).getLsbD 2 = false) :
    devInit s = { s with dev := startIfPending (latchInitBlock s.mem a s.dev) } := by
  subst ha
  rw [devInit, if_neg (not_not_intro hstyle)]
  simp only [hdma, hloop, Bool.not_true, Bool.false_eq_true, if_false]

/-- What the device holds after it has fetched the block of a controller whose region is at `base`: what the controller
meant (R291). -/
structure Dev.HoldsInitBlock (p : Params) (base : Nat) (mac : BitVec 48) (d : Dev) : Prop where
  mode : d.csr15 = p.initMode
  rlen : d.rlen = rxLen p
  tlen : d.tlen = txLen p
  padr : d.padr = mac
  ladrf : d.ladrf = 0
  rdra : d.rdra.toNat = base + rxRingOff
  tdra : d.tdra.toNat = base + txRingOff p
  idon : d.csr0.idon = true

section Fetch

variable {p : Params} {base : Nat} {mac : BitVec 48}

/-- The fetch latches from the controller's block what the controller meant. -/
theorem latchInitBlock_holds {m : Memory} (h : InitBlockAt p base mac m) (hwf : p.wf = true)
    (hregion : regionOk p base = true) (d : Dev) : (latchInitBlock m base d).HoldsInitBlock p base mac where
  mode := h.mode
  rlen := by rw [latchInitBlock, h.rlen, ringLength_of_log2 (Params.logs_le hwf).1, rxLen]
  tlen := by rw [latchInitBlock, h.tlen, ringLength_of_log2 (Params.logs_le hwf).2, txLen]
  padr := addressOf_of_readBytes h.padr
  ladrf := h.ladrf
  rdra := by
    rw [latchInitBlock, h.rdra]
    exact masked_region_address (by decide) hregion rfl (rxRing_le_txRing p)
  tdra := by
    rw [latchInitBlock, h.tdra]
    exact masked_region_address (by decide) hregion (txRingOff_aligned p) le_rfl
  idon := rfl

/-- A remembered STRT (R35) leaves alone what the fetch latched. -/
theorem Dev.HoldsInitBlock.start {d : Dev} (h : d.HoldsInitBlock p base mac) :
    (startIfPending d).HoldsInitBlock p base mac := by
  rw [startIfPending]
  split_ifs
  · exact { h with }
  · exact h

/-- The register that INIT has loaded names the block (R83). -/
theorem iadr_eq {d : Dev} (hcsr : (d.csr2 ++ d.csr1 : Word) = BitVec.ofNat 32 base) (hregion : regionOk p base = true) :
    iadr d = base := by
  rw [iadr, hcsr]
  exact masked_region_address (off := 0) (by decide) hregion rfl (Nat.zero_le _)

end Fetch

/-- The fetch of a live run, where the block of the device's address is the controller's. -/
theorem agentStep_init_holds {s : State} {base : Nat} {mac : BitVec 48} (hblock : InitBlockAt s.cfg base mac s.mem)
    (hlive : s.refusal = none) (hpending : s.dev.devState = .initPending) (hstyle : s.dev.swstyle = 2)
    (hwf : s.cfg.wf = true) (hregion : regionOk s.cfg base = true) (hfreed : meetsFreed s (base, 28) = false)
    (hloop : s.cfg.initMode.getLsbD 2 = false) (hcsr : (s.dev.csr2 ++ s.dev.csr1 : Word) = BitVec.ofNat 32 base) :
    (agentStep .init s).refusal = none ∧ (agentStep .init s).dev.HoldsInitBlock s.cfg base mac := by
  have hiadr := iadr_eq hcsr hregion
  have hbarred : barred .init s = false := barred_init_false fun _ _ => by rw [hiadr, hfreed]
  rw [agentStep_live hlive hbarred, takeStep, if_pos hpending,
    devInit_latches hiadr hstyle (dmaOk_initBlock hregion) (by rw [hblock.mode, hloop])]
  exact ⟨hlive, (latchInitBlock_holds hblock hwf hregion _).start⟩

/-- Settles O28: the block is written as `InitBlockAt` says, and the device latches from it what the controller meant
(`latchInitBlock_holds`), each ring address being a multiple of 16 below the top of memory. -/
theorem deviceReadsTheControllersBlock : Obligations.DeviceReadsTheControllersBlock := by
  intro s base mac hlive hpending hstyle hwf hregion hfreed hloop hcsr
  have hfetch := agentStep_init_holds (s := writeInitBlock base mac s) (base := base) (mac := mac)
  simp only [writeInitBlock_cfg, writeInitBlock_refusal, writeInitBlock_dev, meetsFreed_writeInitBlock] at hfetch
  obtain ⟨hnone, h⟩ :=
    hfetch (writeInitBlock_initBlockAt base mac s) hlive hpending hstyle hwf hregion hfreed hloop hcsr
  exact ⟨hnone, h.mode, h.rlen, h.tlen, h.padr, h.ladrf, h.rdra, h.tdra, h.idon⟩

end Sys2Proof.Machine
end

section
/-!
PROOF. Proofs of the statements of 44_driver_core.md about what the lifecycle allows (O42; R310), about DISABLE (O54; R321), a
port request of the host inside it or any other operation (O10; R326, R456), and TRANSMIT (O48, O49; R320).
-/

namespace Sys2Proof.Machine

/-! ### The states of R310 -/

theorem initializes_iff {l : Lifecycle} : initializes l = true ↔ l = .attached ∨ l = .disabled := by
  cases l <;> simp [initializes]

theorem transmits_iff {l : Lifecycle} : transmits l = true ↔ l = .initializing ∨ l = .running := by
  cases l <;> simp [transmits]

theorem disables_iff {l : Lifecycle} :
    disables l = true ↔ l = .attached ∨ l = .initializing ∨ l = .running := by
  cases l <;> simp [disables]

theorem releases_of_disables {l : Lifecycle} (h : disables l = true) : releases l = true := by
  cases l <;> cases h <;> rfl

/-! ### Operations in a state they are not legal in -/

section Illegal

variable {s : State} (hr : s.refusal = none)

include hr

theorem exec_attach_illegal (hl : s.ctl.lc ≠ .unattached) : exec .attach s = .next { s with result := .badState } := by
  show execAttach s = _
  rw [execAttach, whenLive_live hr, if_neg hl, finish_eq]

theorem exec_initialize_illegal (hl : ¬ initializes s.ctl.lc = true) :
    exec .initializeOp s = .next { s with result := .badState } := by
  show execInitialize s = _
  rw [execInitialize, whenLive_live hr, if_neg hl, finish_eq]

theorem exec_transmit_illegal (hl : ¬ transmits s.ctl.lc = true) (b : List Byte) :
    exec (.transmit b) s = .next { s with result := .txError .badState } := by
  show execTransmit b s = _
  rw [execTransmit, whenLive_live hr, if_neg hl, finish_eq]

theorem exec_receive_illegal (hl : ¬ receives s.ctl.lc = true) :
    exec .receive s = .next { s with result := .badState } := by
  show execReceive s = _
  rw [execReceive, whenLive_live hr, receiveStep, if_neg hl, finish_eq, takeResult]

/-- DISABLE where nothing is to be stopped (R321). -/
theorem exec_disable_idle (hl : ¬ disables s.ctl.lc = true) :
    exec .disable s = .next { s with result := .ok } := by
  show execDisable s = _
  rw [execDisable, whenLive_live hr, disableSteps, if_neg hl, finish_eq]

/-- RELEASE where nothing is held (R322). -/
theorem exec_release_idle (hl : ¬ releases s.ctl.lc = true) :
    exec .release s = .next { s with result := .ok } := by
  show execRelease s = _
  rw [execRelease, whenLive_live hr, if_neg hl, finish_eq]

theorem exec_isr_unregistered (hi : s.ctl.irqRegistered = false) :
    exec .isr s = .next { s with result := .notInvoked } := by
  show execIsr s = _
  rw [execIsr, whenLive_live hr, if_neg (by rw [hi]; exact Bool.false_ne_true), finish_eq]

end Illegal

/-- Settles O42: each operation asks for its states before it does anything else. -/
theorem illegalOperationsChangeNothing : Obligations.IllegalOperationsChangeNothing := by
  intro s hr
  refine ⟨exec_attach_illegal hr, fun ha hd => exec_initialize_illegal hr ?init,
    fun hi hn => exec_transmit_illegal hr ?transmit, fun hl => exec_receive_illegal hr ?receive,
    fun hl => exec_disable_idle hr ?disable, fun hl => exec_release_idle hr ?release, exec_isr_unregistered hr⟩
  case init => rw [initializes_iff]; exact not_or.mpr ⟨ha, hd⟩
  case transmit => rw [transmits_iff]; exact not_or.mpr ⟨hi, hn⟩
  case receive => rcases hl with hl | hl | hl <;> rw [hl] <;> decide
  case disable => rcases hl with hl | hl | hl <;> rw [hl] <;> decide
  case release => rcases hl with hl | hl <;> rw [hl] <;> decide

/-! ### DISABLE (R321) -/

/-- Settles O54, by `disableSteps_alone`. -/
theorem disableStopsTheDevice : Obligations.DisableStopsTheDevice := by
  intro s m ha hf hl
  show execDisable s = _
  rw [execDisable, whenLive_live ha.live, disableSteps_alone ha hf (disables_iff.mpr hl), finish_eq]
  rfl

/-! ### A port request of the host inside an operation (R326) -/

/-- The offset bits of an APROM word are no part of its direction and size (R121). -/
theorem portAnswer_aprom {k : Byte} (hk : k.getLsbD 7 = false) (off : BitVec 4) (v : Word) :
    portAnswer (k ||| off.setWidth 8) v = .read (sizeBytes (k.extractLsb' 5 2)) v := by
  have hoff : (off.setWidth 8).getLsbD 7 = false ∧ (off.setWidth 8).extractLsb' 5 2 = 0#2 := by revert off; decide
  simp only [portAnswer, BitVec.getLsbD_or, BitVec.extractLsb'_or, hk, hoff, BitVec.or_zero, Bool.or_false,
    Bool.false_eq_true, if_false]

/-- The word of a port row says what its request gives back: nothing, or a read of its width (R121). -/
theorem exec_port_in_mode {i : Instr} {s : State} {w : Byte} {data : List Byte} (hi : encode i = ⟨.pio, w :: data⟩)
    (hm : modeAdmits (rowMode i) s.dev.dwio = true) (hr : s.refusal = none) :
    exec i s = .next { (portRow i s).2 with result := portAnswer w (portRow i s).1 } := by
  cases i
  case attach | initializeOp | isr | transmit | receive | disable | release => cases hi
  case dwioEnter | rdpWw | rapWw | bdpWw | rdpWd | rapWd | bdpWd =>
    cases hi
    exact writeMeaning_in_mode hr hm _
  case apromRb off | apromRw off | apromRd off =>
    cases hi
    rw [portAnswer_aprom (by decide)]
    exact readMeaning_in_mode hr hm _ _ _
  all_goals
    cases hi
    exact readMeaning_in_mode hr hm _ _ _

theorem hostPort_decoded {s : State} {w : Byte} {data : List Byte} {i : Instr}
    (h : decodePio s.dev.dwio w data = .ok i) :
    hostPort w data s =
      { (portRow i s).2 with portAnswers := s.portAnswers ++ [portAnswer w (portRow i s).1] } := by
  simp only [hostPort, h]

theorem hostPort_undecoded {s : State} {w : Byte} {data : List Byte}
    (h : ∀ r ∈ portRows, r.takes s.dev.dwio w = false) :
    hostPort w data s = { s with portAnswers := s.portAnswers ++ [undecodedResult w] } := by
  simp only [hostPort, decodePio_undecoded h data, undecodedAnswer_eq]

/-- In a live run a move of the host is its port request. -/
theorem move_port {s : State} (hr : s.refusal = none) (w : Byte) (data : List Byte) :
    move (.port w data) s = hostPort w data s := by
  simp only [move, hr]

/-- A word write of RAP by the host, in word mode. -/
theorem move_rapWw {s : State} (hr : s.refusal = none) (hm : s.dev.dwio = false) (n : Byte) :
    move (.port 0xB2 [n, 0]) s =
      { s with dev := { s.dev with rap := n }, portAnswers := s.portAnswers ++ [.written] } := by
  have hd : decodePio s.dev.dwio 0xB2 [n, 0] = .ok (.rapWw (0#8 ++ n)) := by rw [hm]; rfl
  have hn : rapData (0#8 ++ n) = n := BitVec.extractLsb'_append_eq_right
  rw [move_port hr, hostPort_decoded hd]
  simp only [portRow, writeRap, hn]
  rfl

/-- A CSR write in word mode with moves between its two accesses (R456): the second access writes whatever CSR they left
RAP at. -/
theorem setCsr_word_moves_between {s : State} {ms : List Move} (hm : s.dev.dwio = false) (hi : s.interleave = [ms])
    {n v : Word} (hr : (moves ms { writeRap (registerData n) s with interleave := [] }).refusal = none)
    (hm' : (moves ms { writeRap (registerData n) s with interleave := [] }).dev.dwio = false) (k : State → Out) :
    setCsr .word n v s k =
      k (writeRdp (registerData v) (moves ms { writeRap (registerData n) s with interleave := [] })) := by
  simp only [setCsr]
  rw [ctlWrite, portWrite_rap_wio hm, boundary_moves (s := writeRap (registerData n) s) hi hr,
    ctlWrite_alone (by simp) hr, portWrite_rdp_wio hm']

/-- Settles O10: a decoded request is its row's meaning (`exec_port_in_mode`), an undecoded one is answered all the same;
inside DISABLE the host's write of RAP comes between the two accesses of `setCsr`. -/
theorem hostPortInsideAnOperation : Obligations.HostPortInsideAnOperation := by
  refine ⟨fun s w data hr => ⟨fun i hi => ?decoded, fun h => ?undecoded⟩, fun s n hr hf hl hi => ?pair⟩
  case decoded =>
    have hspells := decodePio_spells hi
    refine ⟨_, exec_port_in_mode hspells.request hspells.mode hr, ?_⟩
    rw [move_port hr, hostPort_decoded hi]
    simp
  case undecoded => rw [move_port hr, hostPort_undecoded h]
  case pair =>
    have hm : s.dev.dwio = false := hf.decoder
    have hmoves : moves [.port 0xB2 [n, 0]] { writeRap (registerData 0) s with interleave := [] } =
        { s with dev := { s.dev with rap := n }, interleave := [], portAnswers := s.portAnswers ++ [.written] } := by
      rw [moves, moves, move_rapWw (by exact hr) (by exact hm)]
      rfl
    show execDisable s = _
    rw [execDisable, whenLive_live hr, disableSteps, if_pos (disables_iff.mpr hl), withAccessMode_fits hf,
      setCsr_word_moves_between hm hi (by rw [hmoves]; exact hr) (by rw [hmoves]; exact hm), hmoves]
    rfl

/-! ### TRANSMIT (R320) -/

/-- A payload of no legal length is refused before the slot is looked at (R420). -/
theorem exec_transmit_badLength {s : State} {b : List Byte} (hr : s.refusal = none) (hl : transmits s.ctl.lc = true)
    (hlen : ¬ (1 ≤ b.length ∧ b.length ≤ s.cfg.bufferSize)) :
    exec (.transmit b) s = .next { s with
      ctl := { s.ctl with counters := { s.ctl.counters with txBadLength := s.ctl.counters.txBadLength + 1 } }
      result := .txError .badLength } := by
  show execTransmit b s = _
  rw [execTransmit, whenLive_live hr, if_pos hl, if_neg hlen, finish_eq]

section Transmit

variable {s : State} {m : AccessMode} {base : Nat} {b : List Byte} (hr : s.refusal = none) (hf : s.Fits m)
  (hh : s.Holds base) (hl : transmits s.ctl.lc = true) (hlen : 1 ≤ b.length ∧ b.length ≤ s.cfg.bufferSize)

include hr hf hh hl hlen

/-- TRANSMIT of a legal length in a legal state: the post, and after one that took the slot the doorbell. -/
theorem exec_transmit_legal :
    exec (.transmit b) s =
      if (txPost base b s).1 then
        boundary (txPost base b s).2 fun s => setCsr m 0 0x0048 s fun s => finish .ok s
      else finish (.txError .notOwned) (txPost base b s).2 := by
  show execTransmit b s = _
  rw [execTransmit, whenLive_live hr, if_pos hl, if_pos hlen, withAccessMode_fits hf, withRegion_holds hh]

/-- TRANSMIT on a full ring. -/
theorem exec_transmit_full (ho : deviceOwns s.mem (txDescAddr s.cfg base s.ctl.txCur) = true) :
    exec (.transmit b) s = .next { s with
      ctl := { s.ctl with counters := { s.ctl.counters with txFull := s.ctl.counters.txFull + 1 } }
      result := .txError .notOwned } := by
  rw [exec_transmit_legal hr hf hh hl hlen, txPost_full ho, if_neg Bool.false_ne_true, finish_eq]

/-- TRANSMIT with a free slot leaves the memory of the post: the doorbell writes none. -/
theorem exec_transmit_posts_mem (hi : s.interleave = [])
    (ho : deviceOwns s.mem (txDescAddr s.cfg base s.ctl.txCur) = false) :
    ∃ u, exec (.transmit b) s = .next u ∧
      u.mem = putDesc (txDescAddr s.cfg base s.ctl.txCur) (BitVec.ofNat 32 (txBufAddr s.cfg base s.ctl.txCur))
        (neg16 b.length) 0x8300 (writeBytes s.mem (txBufAddr s.cfg base s.ctl.txCur) b) := by
  have hpost := txPost_allowed ho b (txDesc_le_txBuf hh.txCur base)
  have halone : (txPost base b s).2.Alone := ⟨by simpa using hr, by simpa using hi⟩
  rw [exec_transmit_legal hr hf hh hl hlen, if_pos (by rw [hpost]), boundary_alone halone.undisturbed halone.live,
    setCsr_doorbell halone (by simpa using hf.decoder)]
  exact ⟨_, rfl, by rw [hpost]⟩

end Transmit

/-- Settles O49: the length is asked for before the owner of the slot. -/
theorem transmitThatPostsNothing : Obligations.TransmitThatPostsNothing := by
  intro s m base b hr hf hh hl
  have hl := transmits_iff.mpr hl
  refine ⟨fun hb => exec_transmit_badLength hr hl ?badLength,
    fun hb hsize ho => exec_transmit_full hr hf hh hl ⟨List.length_pos_of_ne_nil hb, hsize⟩ ho⟩
  case badLength =>
    rintro ⟨h1, h2⟩
    rcases hb with rfl | hb
    · exact absurd h1 (by decide)
    · omega

/-- Settles O48: the state and the filled slot are those of `exec_transmit_posts`; its memory is that of the post, in
which only the payload and the descriptor are written. -/
theorem transmitPostsTheFrame : Obligations.TransmitPostsTheFrame := by
  intro s m base b ha hf hh hl h1 h2 i d buf ho
  have hl := transmits_iff.mpr hl
  obtain ⟨t, hexec, ht, hfilled⟩ := exec_transmit_posts ha hf hh hl ⟨h1, h2⟩ ho
  obtain ⟨u, hexec', hmem⟩ := exec_transmit_posts_mem ha.live hf hh hl ⟨h1, h2⟩ ha.undisturbed ho
  obtain rfl : t = u := Host.Outcome.next.inj (hexec.symm.trans hexec')
  refine ⟨t, hexec, ht, hfilled, fun x hd hbuf => ?_⟩
  rw [hmem, putDesc_outside _ _ _ _ _ hd, readByte_writeBytes_outside _ _ _ _ hbuf]

end Sys2Proof.Machine
end

section
/-!
PROOF. Proof of the statement of 44_driver_core.md about RELEASE (O55; R322), and of what the device can no longer do with the
freed region: it writes no byte of it and depends on none (20_memory.md R94, 70_reset_and_hazards.md R463).
-/

namespace Sys2Proof.Machine

/-! ### Memories that differ in a range only -/

theorem SameOutside.refl (a n : Nat) (m : Memory) : SameOutside a n m m := fun _ _ => rfl

theorem SameOutside.insert {a n : Nat} {m m' : Memory} (h : SameOutside a n m m') (x : Nat) (v : Byte) :
    SameOutside a n (Memory.insert x v m) (Memory.insert x v m') := fun y hy => by
  rw [readByte_insert, readByte_insert, h y hy]

/-- The same bytes written to both leave them the same outside the range. -/
theorem SameOutside.writeBytes {a n : Nat} {m m' : Memory} (h : SameOutside a n m m') (b : Nat) (bs : List Byte) :
    SameOutside a n (writeBytes m b bs) (writeBytes m' b bs) := by
  induction bs generalizing m m' b with
  | nil => exact h
  | cons v bs ih => exact ih (h.insert b v) (b + 1)

/-- The `n` bytes from `a` on are apart from the region `g`. -/
def Region.Clear (g : Region) (a n : Nat) : Prop := ∀ x, a ≤ x → x < a + n → x < g.base ∨ g.base + g.size ≤ x

/-- The fields of a descriptor that the device reads are the same in both memories. -/
structure SameDesc (d : Nat) (m m' : Memory) : Prop where
  status : read16 m' d = read16 m d
  byteCount : read16 m' (d + 2) = read16 m (d + 2)
  bufferAddress : read32 m' (d + 4) = read32 m (d + 4)

theorem SameDesc.owner {d : Nat} {m m' : Memory} (h : SameDesc d m m') : deviceOwns m' d = deviceOwns m d := by
  rw [deviceOwns, deviceOwns, h.status]

section Clear

variable {g : Region} {a n : Nat} {m m' : Memory} (hc : g.Clear a n) (hm : SameOutside g.base g.size m m')

include hc hm

theorem Region.Clear.readByte {x : Nat} (h1 : a ≤ x) (h2 : x < a + n) : readByte m' x = readByte m x :=
  hm x (hc x h1 h2)

theorem Region.Clear.readBytes : readBytes m' a n = readBytes m a n :=
  readBytes_congr a n fun _ h1 h2 => hc.readByte hm h1 h2

theorem Region.Clear.read16 {x : Nat} (h1 : a ≤ x) (h2 : x + 2 ≤ a + n) : read16 m' x = read16 m x :=
  read16_congr (hc.readByte hm h1 (by omega)) (hc.readByte hm (by omega) (by omega))

theorem Region.Clear.read32 {x : Nat} (h1 : a ≤ x) (h2 : x + 4 ≤ a + n) : read32 m' x = read32 m x :=
  read32_congr fun _ hx1 hx2 => hc.readByte hm (by omega) (by omega)

end Clear

theorem Region.Clear.sameDesc {g : Region} {d : Nat} {m m' : Memory} (hc : g.Clear d 16)
    (hm : SameOutside g.base g.size m m') : SameDesc d m m' :=
  ⟨hc.read16 hm (by omega) (by omega), hc.read16 hm (by omega) (by omega), hc.read32 hm (by omega) (by omega)⟩

/-- Bytes that do not meet the freed region are apart from it. -/
theorem clear_of_not_meetsFreed {s : State} {g : Region} (hf : s.ctl.freed = some g) {a n : Nat}
    (h : meetsFreed s (a, n) = false) : g.Clear a n := by
  simp only [meetsFreed, hf, Bool.and_eq_false_iff, decide_eq_false_iff_not] at h
  intro x h1 h2
  omega

/-! ### Steps that do not look at a region -/

/-- From `s`, `f` does not depend on the bytes of the region `g`: with other bytes there its outcome is the same but for
bytes there. -/
def Blind (g : Region) (f : State → State) (s : State) : Prop :=
  ∀ m, SameOutside g.base g.size s.mem m →
    ∃ m', f { s with mem := m } = { f s with mem := m' } ∧ SameOutside g.base g.size (f s).mem m'

section Blind

variable {g : Region} {s : State} {f f' : State → State}

theorem Blind.comp (hf : Blind g f s) (hf' : Blind g f' (f s)) : Blind g (fun s => f' (f s)) s := by
  intro m hm
  obtain ⟨m₁, e₁, h₁⟩ := hf m hm
  obtain ⟨m₂, e₂, h₂⟩ := hf' m₁ h₁
  exact ⟨m₂, (congrArg f' e₁).trans e₂, h₂⟩

/-- `f` acts as `f'` does, whatever bytes the region holds. -/
theorem Blind.congr (h : ∀ m, SameOutside g.base g.size s.mem m → f { s with mem := m } = f' { s with mem := m })
    (hf' : Blind g f' s) : Blind g f s := by
  intro m hm
  have hs : f s = f' s := h s.mem (.refl _ _ _)
  rw [h m hm, hs]
  exact hf' m hm

/-- An update that has nothing to do with memory. -/
theorem Blind.of_update (hmem : (f s).mem = s.mem) (h : ∀ m, f { s with mem := m } = { f s with mem := m }) :
    Blind g f s := fun m hm => ⟨m, h m, by rw [hmem]; exact hm⟩

/-- `f` does nothing, whatever bytes the region holds. -/
theorem Blind.of_idle (h : ∀ m, SameOutside g.base g.size s.mem m → f { s with mem := m } = { s with mem := m }) :
    Blind g f s :=
  .congr (f' := fun s => s) h (.of_update rfl fun _ => rfl)

theorem blind_writeBytes (a : Nat) (bs : List Byte) : Blind g (fun s => { s with mem := writeBytes s.mem a bs }) s :=
  fun _ hm => ⟨_, rfl, hm.writeBytes a bs⟩

theorem blind_claimDesc (ring : Ring) (i : Nat) {d : Nat} (st : Half) (hc : g.Clear d 16) :
    Blind g (claimDesc ring i d st) s := by
  have howner m (hm : SameOutside g.base g.size s.mem m) := (hc.sameDesc hm).owner
  cases ho : deviceOwns s.mem d with
  | true =>
    refine .congr (f' := putStatus d st) (fun m hm => ?_) (blind_writeBytes d (halfBytes st))
    exact claimDesc_allowed (s := { s with mem := m }) ((howner m hm).trans ho) ring i st
  | false =>
    refine .congr (f' := raiseFault (.protocolViolation .doubleClaim ring i)) (fun m hm => ?_)
      (.of_update rfl fun _ => rfl)
    exact claimDesc_violation (s := { s with mem := m }) ((howner m hm).trans ho) ring i st

/-! ### Transmit (R365) -/

theorem blind_txReturn (i : Nat) {d : Nat} (st : Half) (hc : g.Clear d 16) : Blind g (txReturn i d st) s :=
  (blind_claimDesc .tx i st hc).comp (f' := fun s => { s with
    dev := { s.dev with csr0 := { s.dev.csr0 with tint := true }, txCurDev := (i + 1) % s.dev.tlen } })
    (.of_update rfl fun _ => rfl)

theorem blind_txOutcome (o : TxOutcome) (frame : List Byte) (i : Nat) {d : Nat} (st : Half) (hc : g.Clear d 16) :
    Blind g (fun s => txReturn i d (txOutcomeStep o frame st s).1 (txOutcomeStep o frame st s).2) s := by
  cases o with
  | ok => exact Blind.comp (f := txSend frame) (.of_update rfl fun _ => rfl) (blind_txReturn i _ hc)
  | uflo => exact blind_txReturn i _ hc
  | lcol => exact blind_txReturn i _ hc

/-- A descriptor and a buffer apart from the region are handled without a look at it. -/
theorem blind_txDescriptor (o : TxOutcome) (c : Bool) (i : Nat) {d : Nat} (hc : g.Clear d 16)
    (hbuf : ∀ n, wholeFrame (read16 s.mem d) = true → deviceLength (read16 s.mem (d + 2)) = some n →
      dmaOk s.cfg (read32 s.mem (d + 4)).toNat n = true → g.Clear (read32 s.mem (d + 4)).toNat n) :
    Blind g (txDescriptor o c i d) s := by
  have hreturn (st : Half) : Blind g (txReturn i d st) s := blind_txReturn i st hc
  cases hw : wholeFrame (read16 s.mem d) with
  | false =>
    refine .congr (fun m hm => ?_) (hreturn (0x4000 ||| framing (read16 s.mem d)))
    have hd := hc.sameDesc hm
    simp only [txDescriptor, hd.status, hw]
  | true =>
    cases hn : deviceLength (read16 s.mem (d + 2)) with
    | none =>
      refine .congr (fun m hm => ?_) (hreturn (0x4000 ||| framing (read16 s.mem d)))
      have hd := hc.sameDesc hm
      simp only [txDescriptor, hd.status, hd.byteCount, hw, hn]
    | some n =>
      cases hdma : dmaOk s.cfg (read32 s.mem (d + 4)).toNat n with
      | false =>
        refine .congr (fun m hm => ?_)
          (Blind.comp (f := fun s => { s with dev := setMerr s.dev }) (.of_update rfl fun _ => rfl)
            (blind_txReturn i (0x4800 ||| framing (read16 s.mem d)) hc))
        have hd := hc.sameDesc hm
        simp only [txDescriptor, hd.status, hd.byteCount, hd.bufferAddress, hw, hn, hdma, Bool.not_false, if_true]
      | true =>
        refine .congr (fun m hm => ?_)
          (Blind.comp
            (f := fun s => { s with dev := { s.dev with csr0 := { s.dev.csr0 with cerr := s.dev.csr0.cerr || c } } })
            (.of_update rfl fun _ => rfl)
            (blind_txOutcome o (readBytes s.mem (read32 s.mem (d + 4)).toNat n) i (read16 s.mem d) hc))
        have hd := hc.sameDesc hm
        have hframe := (hbuf n hw hn hdma).readBytes hm
        simp only [txDescriptor, hd.status, hd.byteCount, hd.bufferAddress, hframe, hw, hn, hdma, Bool.not_true,
          Bool.false_eq_true, if_false]

theorem blind_devTx (o : TxOutcome) (c : Bool) {d : Nat} (hd : s.dev.tdra.toNat + 16 * s.dev.txCurDev = d)
    (hc : dmaOk s.cfg d 16 = true → g.Clear d 16)
    (hbuf : dmaOk s.cfg d 16 = true → deviceOwns s.mem d = true → ∀ n, wholeFrame (read16 s.mem d) = true →
      deviceLength (read16 s.mem (d + 2)) = some n → dmaOk s.cfg (read32 s.mem (d + 4)).toNat n = true →
      g.Clear (read32 s.mem (d + 4)).toNat n) : Blind g (devTx o c) s := by
  subst hd
  cases hdma : dmaOk s.cfg (s.dev.tdra.toNat + 16 * s.dev.txCurDev) 16 with
  | false =>
    refine .congr (f' := fun s => { s with
      dev := { s.dev with csr0 := { s.dev.csr0 with tdmd := false, merr := true, txon := false } } })
      (fun m _ => ?_) (.of_update rfl fun _ => rfl)
    simp only [devTx, hdma, Bool.not_false, if_true]
  | true =>
    have hc := hc hdma
    cases ho : deviceOwns s.mem (s.dev.tdra.toNat + 16 * s.dev.txCurDev) with
    | false =>
      refine .congr (f' := fun s => { s with dev := { s.dev with csr0 := { s.dev.csr0 with tdmd := false } } })
        (fun m hm => ?_) (.of_update rfl fun _ => rfl)
      simp only [devTx, hdma, (hc.sameDesc hm).owner, ho, Bool.not_true, Bool.not_false, Bool.false_eq_true, if_false,
        if_true]
    | true =>
      have hdesc := Blind.comp (s := s)
        (f := fun s => { s with dev := { s.dev with csr0 := { s.dev.csr0 with tdmd := false } } })
        (.of_update rfl fun _ => rfl) (blind_txDescriptor o c s.dev.txCurDev hc (hbuf hdma ho))
      exact .congr (fun m hm =>
        devTx_owned (s := { s with mem := m }) o c rfl hdma ((hc.sameDesc hm).owner.trans ho)) hdesc

/-! ### Receive (R370) -/

theorem blind_rxComplete (i n : Nat) {d : Nat} (st : Half) (hc : g.Clear d 16) : Blind g (rxComplete i d n st) s :=
  ((blind_writeBytes (d + 2) (halfBytes (neg16 n))).comp (blind_claimDesc .rx i st hc)).comp (f' := fun s => { s with
    dev := { s.dev with csr0 := { s.dev.csr0 with rint := true }, rxCurDev := (i + 1) % s.dev.rlen } })
    (.of_update rfl fun _ => rfl)

/-- A buffer is written only, so it need not be apart from the region. -/
theorem blind_rxFill (f : Frame) (i : Nat) {d : Nat} (hc : g.Clear d 16) : Blind g (rxFill f i d) s := by
  cases hbuf : decide (min f.bytes.length ((deviceLength (read16 s.mem (d + 2))).getD 0) > 0) &&
      !dmaOk s.cfg (read32 s.mem (d + 4)).toNat
        (min f.bytes.length ((deviceLength (read16 s.mem (d + 2))).getD 0)) with
  | true =>
    refine .congr (f' := fun s => { s with dev := setMerr s.dev }) (fun m hm => ?_) (.of_update rfl fun _ => rfl)
    have hd := hc.sameDesc hm
    simp only [rxFill, hd.byteCount, hd.bufferAddress, hbuf, if_true]
  | false =>
    have hstore (cap ba : Nat) : Blind g (fun s =>
        rxComplete i d (min f.bytes.length cap) (rxStatus (decide (f.bytes.length > cap)) f.framErr f.ofloErr f.crcErr)
          { s with mem := writeBytes s.mem ba (f.bytes.take (min f.bytes.length cap)) }) s :=
      (blind_writeBytes ba _).comp (blind_rxComplete i _ _ hc)
    refine .congr (fun m hm => ?_)
      (hstore ((deviceLength (read16 s.mem (d + 2))).getD 0) (read32 s.mem (d + 4)).toNat)
    have hd := hc.sameDesc hm
    simp only [rxFill, hd.byteCount, hd.bufferAddress, hbuf, Bool.false_eq_true, if_false]

theorem blind_rxFrame (f : Frame) {d : Nat} (hd : s.dev.rdra.toNat + 16 * s.dev.rxCurDev = d)
    (hc : s.dev.devState = .running → s.dev.csr0.rxon = true → acceptFrame s.dev f = true →
      dmaOk s.cfg d 16 = true → g.Clear d 16) : Blind g (rxFrame f) s := by
  subst hd
  cases hrun : s.dev.devState == .running && s.dev.csr0.rxon with
  | false =>
    refine .of_idle fun m hm => ?_
    simp only [rxFrame, hrun, Bool.not_false, if_true]
  | true =>
    cases hacc : acceptFrame s.dev f with
    | false =>
      refine .of_idle fun m hm => ?_
      simp only [rxFrame, hrun, hacc, Bool.not_true, Bool.not_false, Bool.false_eq_true, if_false, if_true]
    | true =>
      cases hdma : dmaOk s.cfg (s.dev.rdra.toNat + 16 * s.dev.rxCurDev) 16 with
      | false =>
        refine .congr
          (f' := fun s => { s with dev := { s.dev with csr0 := { s.dev.csr0 with merr := true, rxon := false } } })
          (fun m hm => ?_) (.of_update rfl fun _ => rfl)
        simp only [rxFrame, hrun, hacc, hdma, Bool.not_true, Bool.not_false, Bool.false_eq_true, if_false, if_true]
      | true =>
        obtain ⟨hstate, hrxon⟩ := Bool.and_eq_true_iff.mp hrun
        have hc := hc (eq_of_beq hstate) hrxon hacc hdma
        cases ho : deviceOwns s.mem (s.dev.rdra.toNat + 16 * s.dev.rxCurDev) with
        | false =>
          refine .congr (f' := fun s => { s with dev := missedFrame s.dev }) (fun m hm => ?_)
            (.of_update rfl fun _ => rfl)
          simp only [rxFrame, hrun, hacc, hdma, (hc.sameDesc hm).owner, ho, Bool.not_true, Bool.not_false,
            Bool.false_eq_true, if_false, if_true]
        | true =>
          refine .congr (fun m hm => ?_) (blind_rxFill f s.dev.rxCurDev hc)
          simp only [rxFrame, hrun, hacc, hdma, (hc.sameDesc hm).owner, ho, Bool.not_true, Bool.false_eq_true, if_false]

/-! ### The fetch (R362) -/

/-- The fetch latches the bytes of its block only. -/
theorem latchInitBlock_congr {m m' : Memory} {a : Nat} (h : ∀ x, a ≤ x → x < a + 28 → readByte m' x = readByte m x)
    (d : Dev) : latchInitBlock m' a d = latchInitBlock m a d := by
  have hb (k : Nat) (hk : k < 28) : readByte m' (a + k) = readByte m (a + k) := h _ (by omega) (by omega)
  have h0 : readByte m' a = readByte m a := h _ (by omega) (by omega)
  simp (disch := decide) only [latchInitBlock, read64, read32, read16, Nat.add_assoc, Nat.reduceAdd, h0, hb]

theorem blind_devInit (hc : s.dev.swstyle = 2 → dmaOk s.cfg (iadr s.dev) 28 = true → g.Clear (iadr s.dev) 28) :
    Blind g devInit s := by
  by_cases hstyle : s.dev.swstyle = 2
  · cases hdma : dmaOk s.cfg (iadr s.dev) 28 with
    | false =>
      refine .congr (f' := fun s => { s with dev := initFail s.dev }) (fun m hm => ?_) (.of_update rfl fun _ => rfl)
      simp only [devInit, hstyle, hdma, ne_eq, not_true_eq_false, if_false, Bool.not_false, if_true]
    | true =>
      have hc := hc hstyle hdma
      cases hloop : (read16 s.mem (iadr s.dev)).getLsbD 2 with
      | true =>
        refine .congr (f' := refuse .loopback) (fun m hm => ?_) (.of_update rfl fun _ => rfl)
        simp only [devInit, hstyle, hdma, hc.read16 hm (le_refl _) (by omega), hloop, ne_eq, not_true_eq_false, if_false,
          Bool.not_true, Bool.false_eq_true, if_true]
      | false =>
        refine .congr (f' := fun t => { t with dev := startIfPending (latchInitBlock s.mem (iadr s.dev) t.dev) })
          (fun m hm => ?_) (.of_update rfl fun _ => rfl)
        rw [devInit_latches (s := { s with mem := m }) rfl hstyle hdma
          (by rw [hc.read16 hm (le_refl _) (by omega), hloop])]
        dsimp only
        rw [latchInitBlock_congr fun x h1 h2 => hc.readByte hm h1 h2]
  · refine .congr (f' := refuse .unsupportedStyle) (fun m hm => ?_) (.of_update rfl fun _ => rfl)
    exact if_pos hstyle

end Blind

/-! ### Every step of the device and the environment -/

section Freed

variable {s : State} {g : Region} (hf : s.ctl.freed = some g)

include hf

/-- What a poll reaches first is the descriptor at its cursor, and what it reaches next depends on that one only. -/
theorem barred_tx_blind (o : TxOutcome) (c : Bool) {m : Memory} (hm : SameOutside g.base g.size s.mem m) :
    barred (.tx o c) { s with mem := m } = barred (.tx o c) s := by
  have hsame (r : Nat × Nat) : meetsFreed { s with mem := m } r = meetsFreed s r := rfl
  by_cases hc : s.dev.devState = .running ∧ s.dev.csr0.txon ∧ dmaOk s.cfg (s.dev.tdra.toNat + 16 * s.dev.txCurDev) 16
  · simp only [barred, devReach, txReach, if_pos hc, List.any_cons, hsame]
    cases hd : meetsFreed s (s.dev.tdra.toNat + 16 * s.dev.txCurDev, 16) with
    | true => simp only [Bool.true_or]
    | false =>
      have hdesc := (clear_of_not_meetsFreed hf hd).sameDesc hm
      simp only [hdesc.owner, hdesc.status, hdesc.byteCount, hdesc.bufferAddress]
      rfl
  · simp only [barred, devReach, txReach, if_neg hc, List.any_nil]

/-- So it is with a fill, once the frame is one the device takes. -/
theorem barred_rx_blind {m : Memory} (hm : SameOutside g.base g.size s.mem m) :
    barred .rx { s with mem := m } = barred .rx s := by
  have hsame (r : Nat × Nat) : meetsFreed { s with mem := m } r = meetsFreed s r := rfl
  cases hrx : s.env.rxIn with
  | nil => simp only [barred, devReach, rxReach, hrx, List.any_nil]
  | cons f fs =>
    by_cases hc : s.dev.devState = .running ∧ s.dev.csr0.rxon ∧ acceptFrame s.dev f ∧
        dmaOk s.cfg (s.dev.rdra.toNat + 16 * s.dev.rxCurDev) 16
    · simp only [barred, devReach, rxReach, hrx, if_pos hc, List.any_cons, hsame]
      cases hd : meetsFreed s (s.dev.rdra.toNat + 16 * s.dev.rxCurDev, 16) with
      | true => simp only [Bool.true_or]
      | false =>
        have hdesc := (clear_of_not_meetsFreed hf hd).sameDesc hm
        simp only [hdesc.owner, hdesc.byteCount, hdesc.bufferAddress]
        rfl
    · simp only [barred, devReach, rxReach, hrx, if_neg hc, List.any_nil]

/-- The bytes of the freed region do not decide whether a step occurs. -/
theorem barred_blind (a : AgentStep) {m : Memory} (hm : SameOutside g.base g.size s.mem m) :
    barred a { s with mem := m } = barred a s := by
  cases a with
  | init => rfl
  | tx o c => exact barred_tx_blind hf o c hm
  | rx => exact barred_rx_blind hf hm
  | frame f => rfl
  | platform p => rfl

/-- Every range that a step reaches is apart from the freed region, where the step is not barred. -/
theorem clear_of_not_barred {a : AgentStep} (hb : barred a s = false) {x n : Nat} (hx : (x, n) ∈ devReach a s) :
    g.Clear x n := by
  refine clear_of_not_meetsFreed hf ?_
  by_contra hmeets
  have hbarred : barred a s = true := List.any_eq_true.mpr ⟨_, hx, by simpa using hmeets⟩
  rw [hb] at hbarred
  cases hbarred

/-- A step that is not barred does not depend on the bytes of the freed region. -/
theorem takeStep_blind {a : AgentStep} (hb : barred a s = false) : Blind g (takeStep a) s := by
  have hclear {x n : Nat} := clear_of_not_barred hf hb (x := x) (n := n)
  cases a with
  | init =>
    by_cases hs : s.dev.devState = .initPending
    · exact .congr (fun m _ => if_pos hs)
        (blind_devInit fun hstyle hdma => hclear (by simp [devReach, initReach, hs, hstyle, hdma]))
    · exact .of_idle fun m _ => if_neg hs
  | tx o c =>
    by_cases hs : s.dev.devState = .running ∧ s.dev.csr0.txon
    · refine .congr (fun m _ => if_pos hs) (blind_devTx o c rfl (fun hdma => hclear ?_) fun hdma ho n hw hn hk => ?_)
      · simp [devReach, txReach, hs, hdma]
      · have hn0 : 0 < n := (deviceLength_range hn).1
        exact hclear (by simp [devReach, txReach, bufferReach, hs, hdma, ho, hw, hn, hn0, hk])
    · exact .of_idle fun m _ => if_neg hs
  | rx =>
    cases hrx : s.env.rxIn with
    | nil => exact .of_idle fun m _ => takeStep_rx_disabled (s := { s with mem := m }) hrx
    | cons f fs =>
      have hframe := Blind.comp (s := s) (f := fun s => { s with env := { s.env with rxIn := fs } })
        (.of_update rfl fun _ => rfl) (blind_rxFrame (g := g) f rfl fun hrun hrxon hacc hdma => hclear ?_)
      · refine .congr (fun m _ => ?_) hframe
        simp only [takeStep, devRx, hrx]
      · dsimp only at hrun hrxon hacc hdma
        simp [devReach, rxReach, hrx, hrun, hrxon, hacc, hdma]
  | frame f =>
    by_cases hempty : f.bytes = []
    · exact .of_idle fun m _ => if_pos hempty
    · exact .congr (f' := fun s => { s with env := { s.env with rxIn := s.env.rxIn ++ [f] } })
        (fun m _ => if_neg hempty) (.of_update rfl fun _ => rfl)
  | platform p => exact .of_update rfl fun _ => rfl

theorem agentStep_blind (a : AgentStep) : Blind g (agentStep a) s := by
  cases hr : s.refusal with
  | some r => exact .of_idle fun m _ => by simp only [agentStep, hr]
  | none =>
    cases hb : barred a s with
    | true => exact .of_idle fun m hm => agentStep_barred ((barred_blind hf a hm).trans hb)
    | false =>
      exact .congr (fun m hm => agentStep_live hr ((barred_blind hf a hm).trans hb)) (takeStep_blind hf hb)

end Freed

/-! ### RELEASE (R322) -/

/-- RELEASE with a device to stop: DISABLE's steps, then the resources are given back. -/
theorem exec_release_stops {s : State} {m : AccessMode} (ha : s.Alone) (hf : s.Fits m)
    (hl : disables s.ctl.lc = true) :
    exec .release s = .next { giveBack { s with
      dev := devStop { s.dev with rap := 0 }, ctl := { s.ctl with lc := .disabled } } with result := .ok } := by
  show execRelease s = _
  rw [execRelease, whenLive_live ha.live, if_pos (releases_of_disables hl), disableSteps_alone ha hf hl, finish_eq]

/-- RELEASE of a DISABLED controller asks nothing of the device. -/
theorem exec_release_disabled {s : State} (hr : s.refusal = none) (hl : s.ctl.lc = .disabled) :
    exec .release s = .next { giveBack s with result := .ok } := by
  show execRelease s = _
  rw [execRelease, whenLive_live hr, if_pos (by rw [hl]; rfl), disableSteps, if_neg (by rw [hl]; decide), finish_eq]

/-- A STOPPED device accesses no memory (R34). -/
theorem agentSteps_stopped_mem (as : List AgentStep) {s : State} (hs : s.dev.devState = .stopped) :
    (agentSteps as s).mem = s.mem := by
  obtain ⟨e, h, -⟩ := agentSteps_stopped as hs
  rw [h]

/-- Settles O55: the operation leaves the device STOPPED or as it is (`exec_release_stops`, `exec_release_disabled`); a
step of the device reaches no byte of the freed region (`agentStep_freed`) and does not look at one
(`agentStep_blind`). -/
theorem releaseGivesEverythingBack : Obligations.ReleaseGivesEverythingBack := by
  refine ⟨fun s m ha hf => ⟨fun hl => ?stops, fun hl => ?disabled⟩, fun s g a m hg => ⟨fun x => ?bytes, fun hm => ?blind⟩⟩
  case stops =>
    exact ⟨_, exec_release_stops ha hf (disables_iff.mpr hl), rfl, fun as => agentSteps_stopped_mem as rfl⟩
  case disabled =>
    exact ⟨_, exec_release_disabled ha.live hl, rfl, fun hs as => agentSteps_stopped_mem as hs⟩
  case bytes => exact agentStep_freed hg
  case blind =>
    obtain ⟨m', e, h⟩ := agentStep_blind hg a m hm
    rw [e]
    exact ⟨rfl, h⟩

end Sys2Proof.Machine
end

section
/-!
PROOF. Proofs of the statements of 44_driver_core.md about the interrupt service without a drain: on IDON (O43), with nothing
but flags to acknowledge (O44), and of a STOPPED device (O47; R315, R316).
-/

namespace Sys2Proof.Machine

/-! ### What the device keeps while others step -/

theorem agentSteps_agentFrame (as : List AgentStep) (s : State) : s.AgentFrame (agentSteps as s) := by
  induction as generalizing s with
  | nil => rfl
  | cons a as ih => exact (agentStep_agentFrame a s).trans (ih (agentStep a s))

theorem txDescriptor_devState (o : TxOutcome) (c : Bool) (i d : Nat) (s : State) :
    (txDescriptor o c i d s).dev.devState = s.dev.devState := by
  unfold txDescriptor
  dsimp only
  split
  · split_ifs
    · simp [txReturn]
    · cases o <;> simp [txReturn, txOutcomeStep, txSend]
  · simp [txReturn]

theorem devTx_devState (o : TxOutcome) (c : Bool) (s : State) : (devTx o c s).dev.devState = s.dev.devState := by
  unfold devTx
  dsimp only
  split_ifs
  · rfl
  · rfl
  · exact txDescriptor_devState ..

theorem rxFrame_devState (f : Frame) (s : State) : (rxFrame f s).dev.devState = s.dev.devState := by
  unfold rxFrame
  dsimp only
  split_ifs
  case neg =>
    unfold rxFill
    dsimp only
    split_ifs
    · rfl
    · simp [rxComplete]
  all_goals rfl

/-- A RUNNING device goes on running: only a command of the host stops it (R34). -/
theorem agentStep_running (a : AgentStep) {s : State} (h : s.dev.devState = .running) :
    (agentStep a s).dev.devState = .running := by
  rcases agentStep_cases a s with e | ⟨_, _, e⟩ <;> rw [e]
  · exact h
  · cases a with
    | init => rw [takeStep_init_disabled (by simp [h]), h]
    | tx o c =>
      dsimp only [takeStep]
      split_ifs
      · rw [devTx_devState, h]
      · exact h
    | rx =>
      dsimp only [takeStep, devRx]
      split
      · exact h
      · rw [rxFrame_devState]; exact h
    | frame f => dsimp only [takeStep]; split_ifs <;> exact h
    | platform p => exact h

theorem agentSteps_running (as : List AgentStep) {s : State} (h : s.dev.devState = .running) :
    (agentSteps as s).dev.devState = .running := by
  induction as generalizing s with
  | nil => exact h
  | cons a as ih => exact ih (agentStep_running a h)

/-! ### CSR0 written back as it was read (R216, R315) -/

/-- The device `d` after CSR0 has been written back as `d₀` showed it: the flags it showed are acknowledged, INIT is accepted
by a device that has stopped meanwhile, and a demand is set again (R202, R205, R207). -/
def writtenBack (d₀ d : Dev) : Dev :=
  { d with
    devState := if d.devState = .stopped then .initPending else d.devState
    atStop := false
    csr0 := { d.csr0 with
      babl := d.csr0.babl && !d₀.csr0.babl
      cerr := d.csr0.cerr && !d₀.csr0.cerr
      miss := d.csr0.miss && !d₀.csr0.miss
      merr := d.csr0.merr && !d₀.csr0.merr
      rint := d.csr0.rint && !d₀.csr0.rint
      tint := d.csr0.tint && !d₀.csr0.tint
      idon := d.csr0.idon && !d₀.csr0.idon
      iena := d₀.csr0.iena
      tdmd := d.csr0.tdmd || (d₀.csr0.tdmd && d.csr0.txon)
      init := true } }

/-- The acknowledge of a write-back, flag by flag. -/
theorem acknowledged_csr0Word (d₀ d : Dev) :
    acknowledged d (csr0Word d₀) =
      { d with
        atStop := false
        csr0 := { d.csr0 with
          babl := d.csr0.babl && !d₀.csr0.babl
          cerr := d.csr0.cerr && !d₀.csr0.cerr
          miss := d.csr0.miss && !d₀.csr0.miss
          merr := d.csr0.merr && !d₀.csr0.merr
          rint := d.csr0.rint && !d₀.csr0.rint
          tint := d.csr0.tint && !d₀.csr0.tint
          idon := d.csr0.idon && !d₀.csr0.idon
          iena := d₀.csr0.iena } } := by
  simp only [acknowledged, acknowledge, getLsbD_csr0Word]
  simp

section WriteBack

variable {d₀ d : Dev} (h₀ : d₀.Inv) (hs₀ : d₀.devState ≠ .stopped) (h : d.Inv)
  (hrun : d₀.devState = .running → d.devState = .running)

include h₀ hs₀ h hrun

/-- INIT and STRT written back: STRT shows a device that was RUNNING and still is, so neither has an effect but an INIT on
one that has stopped (R205, R206). -/
theorem commandInitStrt_writeBack :
    commandInitStrt (acknowledged d (csr0Word d₀)) (csr0Word d₀) =
      { acknowledged d (csr0Word d₀) with
        devState := if d.devState = .stopped then .initPending else d.devState
        csr0 := { (acknowledged d (csr0Word d₀)).csr0 with init := true } } := by
  have hinit : (csr0Word d₀).getLsbD 0 = true := by
    rw [getLsbD_csr0Word]
    simp [h₀.init.mpr hs₀]
  have hstrt : (csr0Word d₀).getLsbD 1 = d₀.csr0.strt := by
    rw [getLsbD_csr0Word]
    simp
  by_cases hs : d.devState = .stopped
  · have hnot : d₀.csr0.strt = false := by
      by_contra hc
      have := hrun (h₀.strt.mp (by simpa using hc))
      rw [hs] at this
      cases this
    have hpending : d.pendingStart = false := by
      by_contra hc
      have := h.pendingStart (by simpa using hc)
      rw [hs] at this
      cases this
    rw [commandInitStrt_init (d := acknowledged d _) hs hinit, if_pos hs, hstrt, hnot, ← hpending]
    rfl
  · have hkeep : { acknowledged d (csr0Word d₀) with
        devState := d.devState, csr0 := { (acknowledged d (csr0Word d₀)).csr0 with init := true } } =
        acknowledged d (csr0Word d₀) := by
      rw [← h.init.mpr hs]
      rfl
    rw [if_neg hs, hkeep]
    cases hr : d₀.csr0.strt with
    | true => exact commandInitStrt_ignored (Or.inr (Or.inr (hrun (h₀.strt.mp hr))))
    | false =>
      refine commandInitStrt_without_command ?_ (hstrt.trans hr)
      rw [hinit, Bool.true_and]
      exact beq_false_of_ne hs

/-- A demand that CSR0 showed is that of a RUNNING device. -/
theorem csrWrite_writeBack : csrWrite d 0 (csr0Word d₀) = writtenBack d₀ d := by
  have hstop : (csr0Word d₀).getLsbD 2 = false := by
    rw [getLsbD_csr0Word]
    simp [stopBit, hs₀]
  have htdmd : (csr0Word d₀).getLsbD 3 = d₀.csr0.tdmd := by
    rw [getLsbD_csr0Word]
    simp
  have hdemand : d₀.csr0.tdmd = true → d.devState = .running := fun ht => hrun (h₀.txon (h₀.tdmd ht)).1
  rw [csrWrite_zero_commands d hstop, commandTdmd_eq, commandInitStrt_writeBack h₀ hs₀ h hrun, htdmd,
    acknowledged_csr0Word]
  cases ht : d₀.csr0.tdmd with
  | true => simp [writtenBack, ht, hdemand ht]
  | false => simp [writtenBack, ht]

end WriteBack

/-! ### The events counted (R315) -/

/-- The error flags of a CSR0 and a CSR4, counted. -/
def eventsCounted (c0 : Csr0) (c4 : Csr4) (n : Counters) : Counters :=
  { n with
    cntBabl := countIf c0.babl n.cntBabl
    cntCerr := countIf c0.cerr n.cntCerr
    cntMiss := countIf c0.miss n.cntMiss
    cntMerr := countIf c0.merr n.cntMerr
    cntMfco := countIf c4.mfco n.cntMfco }

theorem countEvents_words (d d' : Dev) (s : State) :
    countEvents ((csr0Word d).setWidth 32) ((csr4Word d').setWidth 32) s =
      { s with ctl := { s.ctl with counters := eventsCounted d.csr0 d'.csr4 s.ctl.counters } } := by
  simp (disch := decide) only [countEvents, getLsbD_statusWord, getLsbD_csr0Word, getLsbD_csr4Word, eventsCounted]
  simp

/-! ### The service after its read of CSR0 (R315) -/

/-- What the handler does with the CSR0 word `v0` that it has read. -/
def serviceWord (m : AccessMode) (v0 : Word) (s : State) : Out :=
  setCsr m 0 v0 s fun s =>
  getCsr m 4 s fun v4 s =>
  setCsr m 4 v4 s fun s =>
  serviceIdon m v0 s fun s =>
  serviceRint v0 s fun s =>
  finish .serviced (countEvents v0 v4 s)

/-- A service of a registered handler reads CSR0, and then acts on the word. -/
theorem exec_isr_registered {s : State} {m : AccessMode} (hr : s.refusal = none) (hf : s.Fits m)
    (hi : s.ctl.irqRegistered = true) : exec .isr s = getCsr m 0 s (serviceWord m) := by
  show execIsr s = _
  rw [execIsr, whenLive_live hr, if_pos hi, withAccessMode_fits hf]
  rfl

/-- The device after both status registers have been written back, CSR0 as the word `v`. -/
def statusWritten (d : Dev) (v : Half) : Dev :=
  { csrWrite { d with rap := 0 } 0 v with rap := 4, csr4 := ⟨false, d.csr4.mfcom⟩, atStop := false }

theorem csrWrite_zero_csr4 (d : Dev) (v : Half) : (csrWrite d 0 v).csr4 = d.csr4 := by
  cases hv : v.getLsbD 2 with
  | true => rw [csrWrite_zero_stop d hv, devStop_csr4]
  | false =>
    obtain ⟨_, _, _, _, _, _, _, e⟩ := csrWrite_zero_frame d hv
    rw [e]

/-- CSR4 read and written back, undisturbed: MFCO is acknowledged (R212). -/
theorem csr4_service_alone {s : State} {m : AccessMode} (ha : s.Alone) (hm : s.dev.dwio = (m == .dword))
    (k : Word → State → Out) :
    (getCsr m 4 s fun v4 t => setCsr m 4 v4 t (k v4)) =
      k ((csr4Word s.dev).setWidth 32)
        { s with dev := { s.dev with rap := 4, csr4 := ⟨false, s.dev.csr4.mfcom⟩, atStop := false } } := by
  have hread : readRdp (writeRap (registerData 4) s) = (csr4Word s.dev).setWidth 32 := rfl
  have hback : writeRdp (csr4Word s.dev) (writeRap (registerData 4) (writeRap (registerData 4) s)) =
      { s with dev := csrWrite { s.dev with rap := 4 } 4 (csr4Word { s.dev with rap := 4 }) } := rfl
  rw [getCsr_alone hm ha.undisturbed ha.live, setCsr_alone (by exact hm) (by exact ha.undisturbed) (by exact ha.live),
    hread, registerData_setWidth, hback, csrWrite_csr4Word]

/-- Undisturbed, the handler writes both status registers back; then come START, the drain and the counts. -/
theorem serviceWord_alone {s : State} {m : AccessMode} (ha : s.Alone) (hm : s.dev.dwio = (m == .dword)) (d₀ : Dev) :
    serviceWord m ((csr0Word d₀).setWidth 32) s =
      serviceIdon m ((csr0Word d₀).setWidth 32) { s with dev := statusWritten s.dev (csr0Word d₀) } fun t =>
      serviceRint ((csr0Word d₀).setWidth 32) t fun t =>
      .next { t with
        ctl := { t.ctl with counters := eventsCounted d₀.csr0 s.dev.csr4 t.ctl.counters }, result := .serviced } := by
  have hcsr4 := csrWrite_zero_csr4 { s.dev with rap := 0 } (csr0Word d₀)
  have hwritten : writeRdp (csr0Word d₀) (writeRap (registerData 0) s) =
      { s with dev := csrWrite { s.dev with rap := 0 } 0 (csr0Word d₀) } := rfl
  have hmode : (csrWrite { s.dev with rap := 0 } 0 (csr0Word d₀)).dwio = (m == .dword) := by simpa using hm
  unfold serviceWord
  rw [setCsr_alone hm ha.undisturbed ha.live, registerData_setWidth, hwritten]
  rw [csr4_service_alone (s := { s with dev := csrWrite { s.dev with rap := 0 } 0 (csr0Word d₀) })
    ⟨ha.live, ha.undisturbed⟩ hmode]
  simp only [countEvents_words, finish_eq, statusWritten, hcsr4]

theorem getLsbD_idon_read (d : Dev) : ((csr0Word d).setWidth 32 : Word).getLsbD 8 = d.csr0.idon := by
  rw [getLsbD_statusWord _ _ (by decide), getLsbD_csr0Word]
  simp

theorem getLsbD_rint_read (d : Dev) : ((csr0Word d).setWidth 32 : Word).getLsbD 10 = d.csr0.rint := by
  rw [getLsbD_statusWord _ _ (by decide), getLsbD_csr0Word]
  simp

/-- A service that finds nothing to start and nothing to drain. -/
theorem serviceWord_acknowledges {s : State} {m : AccessMode} (ha : s.Alone) (hm : s.dev.dwio = (m == .dword)) {d₀ : Dev}
    (hidon : d₀.csr0.idon = false ∨ s.ctl.lc ≠ .initializing) (hrint : d₀.csr0.rint = false) :
    serviceWord m ((csr0Word d₀).setWidth 32) s = .next { s with
      dev := statusWritten s.dev (csr0Word d₀)
      ctl := { s.ctl with counters := eventsCounted d₀.csr0 s.dev.csr4 s.ctl.counters }
      result := .serviced } := by
  rw [serviceWord_alone ha hm, serviceIdon_skip, serviceRint_skip]
  · rw [getLsbD_rint_read, hrint]; exact Bool.false_ne_true
  · rw [getLsbD_idon_read]
    rintro ⟨h1, h2⟩
    rcases hidon with h | h
    · rw [h] at h1; cases h1
    · exact h h2

/-- The first read of a service, undisturbed. -/
theorem exec_isr_alone {s : State} {m : AccessMode} (ha : s.Alone) (hf : s.Fits m)
    (hi : s.ctl.irqRegistered = true) :
    exec .isr s = serviceWord m ((csr0Word s.dev).setWidth 32) { s with dev := { s.dev with rap := 0 } } := by
  rw [exec_isr_registered ha.live hf hi, getCsr_alone hf.decoder ha.undisturbed ha.live]
  rfl

/-! ### A STOPPED device (R316, R464) -/

/-- A STOPPED device shows STOP, so the write-back stops it again; it has no flags but MERR and MFCO to lose. -/
theorem statusWritten_stopped {d : Dev} (h : d.Inv) (hs : d.devState = .stopped) :
    statusWritten { d with rap := 0 } (csr0Word d) =
      { d with rap := 4, csr0 := Csr0.clear, csr4 := ⟨false, d.csr4.mfcom⟩, atStop := false } := by
  have hstop : (csr0Word d).getLsbD 2 = true := by
    rw [getLsbD_csr0Word]
    simp [stopBit, hs]
  have hpending : d.pendingStart = false := by
    by_contra hc
    have := h.pendingStart (by simpa using hc)
    rw [hs] at this
    cases this
  rw [statusWritten, csrWrite_zero_stop _ hstop]
  simp only [devStop, hs, hpending]

theorem eventsCounted_quiet {c0 : Csr0} (h : c0.Quiet) (c4 : Csr4) (n : Counters) :
    eventsCounted c0 c4 n =
      { n with cntMerr := countIf c0.merr n.cntMerr, cntMfco := countIf c4.mfco n.cntMfco } := by
  obtain ⟨hbabl, hcerr, hmiss, -, -, -⟩ := h
  simp [eventsCounted, hbabl, hcerr, hmiss, countIf]

/-- Settles O47: a STOPPED device has neither IDON nor RINT, and the write-back stops it again
(`statusWritten_stopped`). -/
theorem failedFetchSilencesTheDevice : Obligations.FailedFetchSilencesTheDevice := by
  intro s m ha hf hinv hi hs up
  have hquiet := hinv.quiet (Or.inl hs)
  obtain ⟨-, -, -, hrint, -, hidon⟩ := id hquiet
  refine ⟨_, (exec_isr_alone ha hf hi).trans (serviceWord_acknowledges (s := { s with dev := { s.dev with rap := 0 } })
    ⟨ha.live, ha.undisturbed⟩ hf.decoder (Or.inl hidon) hrint), ?_⟩
  rw [statusWritten_stopped hinv hs, eventsCounted_quiet hquiet]
  exact ⟨rfl, Bool.and_false _, csr0Word_eq_stop hs rfl rfl⟩

/-! ### Flags to acknowledge (R315, R415) -/

/-- The service from its write-back on, of a word read from the device `d₀` that was not STOPPED. -/
theorem serviceWord_writesBack {s : State} {m : AccessMode} {d₀ : Dev} (ha : s.Alone)
    (hm : s.dev.dwio = (m == .dword)) (h₀ : d₀.Inv) (hs₀ : d₀.devState ≠ .stopped) (h : s.dev.Inv)
    (hrun : d₀.devState = .running → s.dev.devState = .running)
    (hidon : d₀.csr0.idon = false ∨ s.ctl.lc ≠ .initializing) (hrint : d₀.csr0.rint = false) :
    serviceWord m ((csr0Word d₀).setWidth 32) s = .next { s with
      dev := { writtenBack d₀ s.dev with rap := 4, csr4 := ⟨false, s.dev.csr4.mfcom⟩ }
      ctl := { s.ctl with counters := eventsCounted d₀.csr0 s.dev.csr4 s.ctl.counters }
      result := .serviced } := by
  rw [serviceWord_acknowledges ha hm hidon hrint, statusWritten,
    csrWrite_writeBack (d := { s.dev with rap := 0 }) h₀ hs₀ (registers_inv h ..) hrun]
  rfl

/-- A device that is not STOPPED has no STOP value in CSR0. -/
theorem Dev.Inv.atStop_eq_false {d : Dev} (h : d.Inv) (hs : d.devState ≠ .stopped) : d.atStop = false := by
  by_contra hc
  exact hs (h.atStop (by simpa using hc)).1

/-- Written back at once, CSR0 as it was read acknowledges its flags and does nothing else (R216). -/
theorem writtenBack_self {d : Dev} (h : d.Inv) (hs : d.devState ≠ .stopped) (r : Byte) :
    writtenBack d { d with rap := r } = { d with
      rap := r
      csr0 := { d.csr0 with
        babl := false, cerr := false, miss := false, merr := false, rint := false, tint := false, idon := false } } := by
  have hdemand : (d.csr0.tdmd || (d.csr0.tdmd && d.csr0.txon)) = d.csr0.tdmd := by
    cases d.csr0.tdmd <;> rfl
  simp only [writtenBack, if_neg hs, Bool.and_not_self, hdemand, h.atStop_eq_false hs, h.init.mpr hs]

/-- Settles O44: what the service writes back is what it read, and the device between the two is one that other agents have
left (`serviceWord_writesBack`). -/
theorem isrAcknowledgesAndCounts : Obligations.IsrAcknowledgesAndCounts := by
  intro s m hr hf hinv hi hs hidon hrint up
  refine ⟨fun halone => ?alone, fun as hmoves => ?between⟩
  case alone =>
    rw [exec_isr_alone ⟨hr, halone⟩ hf hi, serviceWord_writesBack (s := { s with dev := { s.dev with rap := 0 } })
      ⟨hr, halone⟩ hf.decoder hinv hs (registers_inv hinv ..) id hidon hrint, writtenBack_self hinv hs]
    rfl
  case between =>
    intro u hu
    have hframe : State.AgentFrame { s with dev := { s.dev with rap := 0 }, interleave := [] } u :=
      agentSteps_agentFrame as _
    have hinv' : u.dev.Inv := agentSteps_dev_inv as (registers_inv hinv ..)
    have hrun : s.dev.devState = .running → u.dev.devState = .running := fun h =>
      agentSteps_running as (by exact h)
    have hctl : u.ctl = s.ctl := agentSteps_ctl ..
    have hread : exec .isr s = serviceWord m ((csr0Word s.dev).setWidth 32) u := by
      rw [exec_isr_registered hr hf hi, getCsr_then_moves hf.decoder hmoves hr, moves_agent]
      · rfl
      · rw [moves_agent]; exact hu
    have hiena : s.dev.csr0.iena = u.dev.csr0.iena := hframe.dev.csr0.iena.symm
    have hatStop : u.dev.atStop = false := hframe.dev.atStop.trans (hinv.atStop_eq_false hs)
    rw [hread, serviceWord_writesBack ⟨hu, agentSteps_interleave ..⟩ (hframe.dev.dwio.trans hf.decoder) hinv hs hinv' hrun
      (by rw [hctl]; exact hidon) hrint, hctl]
    simp only [writtenBack, hrint, hiena, hatStop, Bool.not_false, Bool.and_true]
    rfl

/-! ### IDON (R315) -/

/-- START with IENA, given to an INITED device (R209). -/
theorem csrWrite_start {d : Dev} (hs : d.devState = .inited) :
    csrWrite d 0 0x0042 = devStart { d with csr0 := { d.csr0 with iena := true }, atStop := false } := by
  have hack : acknowledged d 0x0042 = { d with csr0 := { d.csr0 with iena := true }, atStop := false } := by
    simp [acknowledged, acknowledge]
  have hnodemand : (0x0042 : Half).getLsbD 3 = false := by decide
  rw [csrWrite_zero_commands d (by decide), commandInitStrt_start (d := acknowledged d 0x0042) hs (by decide),
    commandTdmd_eq, hack, hnodemand]
  simp only [Bool.false_and, Bool.or_false]

/-- The device `d` with every flag of its status registers acknowledged. -/
def flagsTaken (d : Dev) : Dev :=
  { d with
    rap := 4
    csr0 := { d.csr0 with
      babl := false, cerr := false, miss := false, merr := false, rint := false, tint := false, idon := false }
    csr4 := ⟨false, d.csr4.mfcom⟩ }

/-- Both status registers of a device that is not STOPPED, written back at once. -/
theorem statusWritten_self {d : Dev} (h : d.Inv) (hs : d.devState ≠ .stopped) :
    statusWritten { d with rap := 0 } (csr0Word d) = flagsTaken d := by
  rw [flagsTaken, statusWritten, csrWrite_writeBack (d := { d with rap := 0 }) h hs (registers_inv h ..) id,
    writtenBack_self h hs 0, h.atStop_eq_false hs]

/-- The end of a service that read the device `d`: its events counted, and the answer. -/
def served (d : Dev) (t : State) : State :=
  { t with
    ctl := { t.ctl with counters := eventsCounted d.csr0 d.csr4 t.ctl.counters }
    result := .serviced }

/-- An undisturbed service: the status registers written back, START, the drain, the counts (R315). -/
theorem exec_isr_serves {s : State} {m : AccessMode} (ha : s.Alone) (hf : s.Fits m) (hinv : s.dev.Inv)
    (hs : s.dev.devState ≠ .stopped) (hi : s.ctl.irqRegistered = true) :
    exec .isr s =
      serviceIdon m ((csr0Word s.dev).setWidth 32) { s with dev := flagsTaken s.dev } fun t =>
      serviceRint ((csr0Word s.dev).setWidth 32) t fun t => .next (served s.dev t) := by
  rw [exec_isr_alone ha hf hi,
    serviceWord_alone (s := { s with dev := { s.dev with rap := 0 } }) ⟨ha.live, ha.undisturbed⟩ hf.decoder,
    statusWritten_self hinv hs]
  rfl

/-- The INITED device `d` after the service that found IDON: acknowledged and started (R209, R315). -/
def serviced (d : Dev) : Dev :=
  { d with
    devState := .running
    rap := 0
    csr4 := ⟨false, d.csr4.mfcom⟩
    csr0 := { Csr0.clear with
      iena := true, init := true, strt := true, rxon := !d.csr15.getLsbD 0, txon := !d.csr15.getLsbD 1 } }

/-- START of the INITED device, which had no demand to keep and whose INIT bit stands. -/
theorem csrWrite_start_acknowledged {d : Dev} (h : d.Inv) (hs : d.devState = .inited) :
    csrWrite { flagsTaken d with rap := 0 } 0 0x0042 = serviced d := by
  have hrunning : d.devState ≠ .running := by rw [hs]; decide
  have hnot : d.devState ≠ .stopped := by rw [hs]; decide
  have htdmd : d.csr0.tdmd = false := by
    by_contra hc
    exact hrunning (h.txon (h.tdmd (by simpa using hc))).1
  rw [csrWrite_start (by exact hs)]
  simp only [flagsTaken, devStart, serviced, Csr0.clear, htdmd, h.init.mpr hnot, h.atStop_eq_false hnot]

/-- The service of an INITED device (R315). -/
theorem exec_isr_starts {s : State} {m : AccessMode} (ha : s.Alone) (hf : s.Fits m) (hinv : s.dev.Inv)
    (hi : s.ctl.irqRegistered = true) (hl : s.ctl.lc = .initializing) (hs : s.dev.devState = .inited)
    (hidon : s.dev.csr0.idon = true) (hrint : s.dev.csr0.rint = false) :
    exec .isr s = .next (served s.dev (setLc .running { s with dev := serviced s.dev })) := by
  have hnot : s.dev.devState ≠ .stopped := by rw [hs]; decide
  rw [exec_isr_serves ha hf hinv hnot hi, serviceIdon_start ⟨(getLsbD_idon_read _).trans hidon, by exact hl⟩,
    setCsr_alone (by exact hf.decoder) (by exact ha.undisturbed) (by exact ha.live),
    serviceRint_skip (by rw [getLsbD_rint_read, hrint]; exact Bool.false_ne_true),
    ← csrWrite_start_acknowledged hinv hs]
  rfl

/-- Settles O43: the acknowledge, and then START (`csrWrite_start_acknowledged`). -/
theorem isrStartsTheDevice : Obligations.IsrStartsTheDevice :=
  fun _ _ ha hf hinv hi hl hs hidon hrint => exec_isr_starts ha hf hinv hi hl hs hidon hrint

end Sys2Proof.Machine
end

section
/-!
PROOF. Proof of the statement of 44_driver_core.md about the interrupt service with RINT (O45; R262, R315): the drain by
induction over the completed slots, one take of `drainLoop` for each.
-/

namespace Sys2Proof.Machine

/-! ### Positions of a ring -/

theorem ring_next (c j n : Nat) : ((c + 1) % n + j) % n = (c + (j + 1)) % n := by
  rw [Nat.mod_add_mod, Nat.add_assoc, Nat.add_comm 1 j]

theorem ring_ne {c j n : Nat} (hc : c < n) (hj : j + 1 < n) : (c + (j + 1)) % n ≠ c := by
  rcases Nat.lt_or_ge (c + (j + 1)) n with h | h
  · rw [Nat.mod_eq_of_lt h]; omega
  · rw [Nat.mod_eq_sub_mod h, Nat.mod_eq_of_lt (by omega)]; omega

theorem ring_round {c n : Nat} (hc : c < n) : (c + n) % n = c := by
  rw [Nat.add_mod_right, Nat.mod_eq_of_lt hc]

/-! ### A completed slot and its take (R256) -/

/-- Slot `i` holds a completed frame, or an error. -/
def SlotHas (p : Params) (base i : Nat) (m : Memory) : Option (List Byte) → Prop
  | some b => RxHolds p base i m b
  | none => (read16 m (rxDescAddr base i)).getLsbD 15 = false ∧ (read16 m (rxDescAddr base i)).getLsbD 14 = true

theorem SlotHas.not_deviceOwns {p : Params} {base i : Nat} {m : Memory} {o : Option (List Byte)}
    (h : SlotHas p base i m o) : deviceOwns m (rxDescAddr base i) = false := by
  cases o with
  | some b =>
    have hstatus := RxHolds.status h
    rw [deviceOwns, hstatus]
    decide
  | none => exact h.1

/-- A slot is unchanged where the bytes of its descriptor and of its buffer are. -/
theorem SlotHas.congr {p : Params} {base i : Nat} {m m' : Memory} {o : Option (List Byte)} (h : SlotHas p base i m o)
    (hd : ∀ x, rxDescAddr base i ≤ x → x < rxDescAddr base i + 16 → readByte m' x = readByte m x)
    (hb : ∀ x, rxBufAddr p base i ≤ x → x < rxBufAddr p base i + p.bufferSize → readByte m' x = readByte m x) :
    SlotHas p base i m' o := by
  have hstatus : read16 m' (rxDescAddr base i) = read16 m (rxDescAddr base i) :=
    read16_congr (hd _ (by omega) (by omega)) (hd _ (by omega) (by omega))
  cases o with
  | some b =>
    obtain ⟨hst, hcount, hnonempty, hfits, hbytes⟩ := h
    refine ⟨hstatus.trans hst, ?_, hnonempty, hfits, ?_⟩
    · exact (read16_congr (hd _ (by omega) (by omega)) (hd _ (by omega) (by omega))).trans hcount
    · exact (readBytes_congr _ _ fun x h1 h2 => hb x h1 (by omega)).trans hbytes
  | none =>
    show _ ∧ _
    rw [hstatus]
    exact h

/-- The RX descriptors end before the RX buffers. -/
theorem rxDesc_le_rxBuf {p : Params} {i : Nat} (h : i < rxLen p) (base j : Nat) :
    rxDescAddr base i + 16 ≤ rxBufAddr p base j := by
  have h1 := rxDesc_end h base
  have h2 := txRing_le_rxBuf p
  have h3 := rxBuf_start p base j
  omega

/-- What only writes descriptor `i` leaves the other slots as they were. -/
theorem SlotHas.of_sameOutside {p : Params} {base i j : Nat} {m m' : Memory} {o : Option (List Byte)}
    (h : SlotHas p base j m o) (hi : i < rxLen p) (hij : i ≠ j) (hm : SameOutside (rxDescAddr base i) 16 m m') :
    SlotHas p base j m' o :=
  h.congr
    (fun x _ _ => hm x (by have := rxDesc_apart hij base; omega))
    (fun x _ _ => hm x (by have := rxDesc_le_rxBuf hi base j; omega))

/-! ### What the drain of a list of slots leaves (R262) -/

/-- From `s`, the state `t` of a controller that has drained `slots`, in ring order from the cursor. -/
structure Drained (base : Nat) (slots : List (Option (List Byte))) (s t : State) : Prop where
  env : t.env = { s.env with stackIn := s.env.stackIn ++ slots.filterMap id }
  dev : t.dev = s.dev
  faults : t.faults = s.faults
  refusal : t.refusal = s.refusal
  interleave : t.interleave = s.interleave
  cfg : t.cfg = s.cfg
  ctl : t.ctl = { s.ctl with
    rxCur := (s.ctl.rxCur + slots.length) % rxLen s.cfg, counters := t.ctl.counters }
  delivered : t.ctl.counters.rxDelivered =
    s.ctl.counters.rxDelivered + BitVec.ofNat 32 (slots.filterMap id).length
  dropped : t.ctl.counters.rxDropped = s.ctl.counters.rxDropped + BitVec.ofNat 32 (slots.countP Option.isNone)
  armed : ∀ j < slots.length, RxArmed s.cfg base ((s.ctl.rxCur + j) % rxLen s.cfg) t.mem
  mem : ∀ x, (∀ j < slots.length, x < rxDescAddr base ((s.ctl.rxCur + j) % rxLen s.cfg) ∨
    rxDescAddr base ((s.ctl.rxCur + j) % rxLen s.cfg) + 16 ≤ x) → readByte t.mem x = readByte s.mem x

theorem Drained.nil {base : Nat} {s : State} (hh : s.Holds base) : Drained base [] s s where
  env := by simp
  dev := rfl
  faults := rfl
  refusal := rfl
  interleave := rfl
  cfg := rfl
  ctl := by simp [Nat.mod_eq_of_lt hh.rxCur]
  delivered := by simp
  dropped := by simp
  armed := by simp
  mem := fun _ _ => rfl

/-- The drain of a slot, then of the rest of the list: no position of a ring is met twice in a round. -/
theorem Drained.cons {base : Nat} {o : Option (List Byte)} {rest : List (Option (List Byte))} {s u t : State}
    (h1 : Drained base [o] s u) (h2 : Drained base rest u t) (hc : s.ctl.rxCur < rxLen s.cfg)
    (hlen : rest.length + 1 ≤ rxLen s.cfg) : Drained base (o :: rest) s t := by
  have hcur : u.ctl.rxCur = (s.ctl.rxCur + 1) % rxLen s.cfg := by rw [h1.ctl]; rfl
  have hat (j : Nat) : (u.ctl.rxCur + j) % rxLen u.cfg = (s.ctl.rxCur + (j + 1)) % rxLen s.cfg := by
    rw [h1.cfg, hcur, ring_next]
  have hfirst : (s.ctl.rxCur + 0) % rxLen s.cfg = s.ctl.rxCur := Nat.mod_eq_of_lt hc
  refine ⟨?env, h2.dev.trans h1.dev, h2.faults.trans h1.faults, h2.refusal.trans h1.refusal,
    h2.interleave.trans h1.interleave, h2.cfg.trans h1.cfg, ?ctl, ?delivered, ?dropped, ?armed, ?mem⟩
  case env =>
    rw [h2.env, h1.env, List.append_assoc, ← List.filterMap_append]
    rfl
  case ctl =>
    rw [h2.ctl, hat, h1.ctl]
    rfl
  case delivered =>
    rw [h2.delivered, h1.delivered, BitVec.add_assoc, ← BitVec.ofNat_add, ← List.length_append, ← List.filterMap_append]
    rfl
  case dropped =>
    rw [h2.dropped, h1.dropped, BitVec.add_assoc, ← BitVec.ofNat_add, ← List.countP_append]
    rfl
  case armed =>
    intro j hj
    cases j with
    | zero =>
      refine (h1.armed 0 (by simp)).congr fun x hx1 hx2 => h2.mem x fun j hj => ?_
      have hne := ring_ne (j := j) hc (by omega)
      have hapart := rxDesc_apart hne base
      rw [hfirst] at hx1 hx2
      rw [hat]
      omega
    | succ j =>
      have harmed := h2.armed j (by simpa using hj)
      rwa [hat, h1.cfg] at harmed
  case mem =>
    intro x hx
    refine (h2.mem x fun j hj => ?_).trans (h1.mem x fun j hj => ?_)
    · rw [hat]
      exact hx (j + 1) (by simpa using hj)
    · have hzero : j = 0 := by simpa using hj
      subst hzero
      exact hx 0 (by simp)

/-! ### One take of the drain -/

section Take

variable {s : State} {base : Nat} (hh : s.Holds base) (hl : s.ctl.lc = .running)

include hh hl

/-- A device-owned slot ends the drain. -/
theorem drainLoop_stops (ho : deviceOwns s.mem (rxDescAddr base s.ctl.rxCur) = true) (fuel : Nat) (k : State → Out) :
    drainLoop (fuel + 1) s k = k s := by
  rw [drainLoop, receiveStep, if_pos (receives_iff.mpr (Or.inr (Or.inl hl))), withRegion_holds hh, takeNext_empty ho]

/-- A completed slot is taken, a frame in it is handed to the stack, and the drain goes on. -/
theorem drainLoop_takes (ha : s.Alone) (hwf : s.cfg.wf = true) {o : Option (List Byte)}
    (hslot : SlotHas s.cfg base s.ctl.rxCur s.mem o) (fuel : Nat) (k : State → Out) :
    ∃ u, drainLoop (fuel + 1) s k = drainLoop fuel u k ∧ Drained base [o] s u := by
  have hfirst : (s.ctl.rxCur + 0) % rxLen s.cfg = s.ctl.rxCur := Nat.mod_eq_of_lt hh.rxCur
  have harmed (m : Memory) : ∀ j < 1, RxArmed s.cfg base ((s.ctl.rxCur + j) % rxLen s.cfg)
      (putDesc (rxDescAddr base s.ctl.rxCur) (BitVec.ofNat 32 (rxBufAddr s.cfg base s.ctl.rxCur))
        (neg16 s.cfg.bufferSize) 0x8000 m) := by
    intro j hj
    obtain rfl : j = 0 := by omega
    rw [hfirst]
    exact putDesc_rxArmed ..
  have hmem : ∀ x, (∀ j < 1, x < rxDescAddr base ((s.ctl.rxCur + j) % rxLen s.cfg) ∨
      rxDescAddr base ((s.ctl.rxCur + j) % rxLen s.cfg) + 16 ≤ x) →
      readByte (putDesc (rxDescAddr base s.ctl.rxCur) (BitVec.ofNat 32 (rxBufAddr s.cfg base s.ctl.rxCur))
        (neg16 s.cfg.bufferSize) 0x8000 s.mem) x = readByte s.mem x := by
    intro x hx
    have := hx 0 (by omega)
    rw [hfirst] at this
    exact putDesc_outside _ _ _ _ _ this
  rw [drainLoop, receiveStep, if_pos (receives_iff.mpr (Or.inr (Or.inl hl))), withRegion_holds hh,
    takeNext_owned hslot.not_deviceOwns]
  cases o with
  | some b =>
    rw [RxHolds.taken_eq hslot hwf]
    dsimp only
    rw [boundary_alone (by exact ha.undisturbed) (by exact ha.live)]
    exact ⟨_, rfl, ⟨rfl, rfl, rfl, rfl, rfl, rfl, rfl, rfl, by simp [onReceive], harmed _, hmem⟩⟩
  | none =>
    have htaken : taken base s = (.dropped, classifyRxError (read16 s.mem (rxDescAddr base s.ctl.rxCur)) s.ctl.counters) :=
      takeSlot_error hslot.2
    rw [htaken]
    dsimp only
    rw [boundary_alone (by exact ha.undisturbed) (by exact ha.live)]
    exact ⟨_, rfl, ⟨by simp, rfl, rfl, rfl, rfl, rfl, rfl, by simp [classifyRxError], rfl, harmed _, hmem⟩⟩

end Take

/-! ### The drain (R262) -/

/-- The drain of a list of completed slots that ends at a device-owned slot, or goes around the whole ring. -/
theorem drainLoop_drains {base : Nat} (slots : List (Option (List Byte))) {s : State} {fuel : Nat}
    (ha : s.Alone) (hh : s.Holds base) (hwf : s.cfg.wf = true) (hl : s.ctl.lc = .running)
    (hfuel : slots.length < fuel) (hlen : slots.length ≤ rxLen s.cfg)
    (hslots : ∀ j o, slots[j]? = some o → SlotHas s.cfg base ((s.ctl.rxCur + j) % rxLen s.cfg) s.mem o)
    (hend : slots.length < rxLen s.cfg →
      deviceOwns s.mem (rxDescAddr base ((s.ctl.rxCur + slots.length) % rxLen s.cfg)) = true) (k : State → Out) :
    ∃ t, drainLoop fuel s k = k t ∧ Drained base slots s t := by
  induction slots generalizing s fuel with
  | nil =>
    obtain ⟨fuel, rfl⟩ : ∃ n, fuel = n + 1 := ⟨fuel - 1, by simp at hfuel; omega⟩
    have hown := hend (Nat.lt_of_le_of_lt (Nat.zero_le _) hh.rxCur)
    rw [List.length_nil, Nat.add_zero, Nat.mod_eq_of_lt hh.rxCur] at hown
    exact ⟨s, drainLoop_stops hh hl hown fuel k, .nil hh⟩
  | cons o rest ih =>
    obtain ⟨fuel, rfl⟩ : ∃ n, fuel = n + 1 := ⟨fuel - 1, by simp at hfuel; omega⟩
    rw [List.length_cons] at hfuel hlen hend
    have hfirst : (s.ctl.rxCur + 0) % rxLen s.cfg = s.ctl.rxCur := Nat.mod_eq_of_lt hh.rxCur
    have hslot : SlotHas s.cfg base s.ctl.rxCur s.mem o := by
      have := hslots 0 o rfl
      rwa [hfirst] at this
    obtain ⟨u, hstep, hu⟩ := drainLoop_takes hh hl ha hwf hslot fuel k
    have hcur : u.ctl.rxCur = (s.ctl.rxCur + 1) % rxLen s.cfg := by rw [hu.ctl]; rfl
    have hat (j : Nat) : (u.ctl.rxCur + j) % rxLen u.cfg = (s.ctl.rxCur + (j + 1)) % rxLen s.cfg := by
      rw [hu.cfg, hcur, ring_next]
    have hmem : SameOutside (rxDescAddr base s.ctl.rxCur) 16 s.mem u.mem := by
      refine fun x hx => hu.mem x fun j hj => ?_
      obtain rfl : j = 0 := by simpa using hj
      rwa [hfirst]
    have hh' : u.Holds base := by
      refine ⟨?_, by rw [hu.cfg]; exact hh.inside, ?_, ?_⟩
      · rw [hu.cfg, hu.ctl]; exact hh.region
      · rw [hu.cfg, hcur]; exact Nat.mod_lt _ (Nat.lt_of_le_of_lt (Nat.zero_le _) hh.rxCur)
      · rw [hu.cfg, hu.ctl]; exact hh.txCur
    have hslots' : ∀ j o, rest[j]? = some o → SlotHas u.cfg base ((u.ctl.rxCur + j) % rxLen u.cfg) u.mem o := by
      intro j o ho
      have hj : j < rest.length := (List.getElem?_eq_some_iff.mp ho).1
      rw [hat, hu.cfg]
      exact (hslots (j + 1) o ho).of_sameOutside hh.rxCur (ring_ne hh.rxCur (by omega)).symm hmem
    have hend' : deviceOwns u.mem (rxDescAddr base ((u.ctl.rxCur + rest.length) % rxLen u.cfg)) = true := by
      rw [hat]
      rcases Nat.lt_or_ge (rest.length + 1) (rxLen s.cfg) with hlt | hge
      · have hapart := rxDesc_apart (ring_ne hh.rxCur hlt) base
        rw [deviceOwns, read16_congr (hmem _ (by omega)) (hmem _ (by omega))]
        exact hend hlt
      · have hround : (s.ctl.rxCur + (rest.length + 1)) % rxLen s.cfg = s.ctl.rxCur := by
          rw [Nat.le_antisymm hlen hge]
          exact ring_round hh.rxCur
        have harmed := hu.armed 0 (by simp)
        rw [hfirst] at harmed
        rw [hround, deviceOwns, harmed.status]
        decide
    obtain ⟨t, hrun, ht⟩ := ih (s := u) (fuel := fuel) ⟨hu.refusal.trans ha.live, hu.interleave.trans ha.undisturbed⟩ hh'
      (by rw [hu.cfg]; exact hwf) (by rw [hu.ctl]; exact hl) (by omega) (by rw [hu.cfg]; omega) hslots' (fun _ => hend')
    exact ⟨t, hstep.trans hrun, hu.cons ht hh.rxCur hlen⟩

/-- Settles O45: a RUNNING controller has nothing to start, and the rest of the service is the drain
(`drainLoop_drains`). -/
theorem isrDrainsInRingOrder : Obligations.IsrDrainsInRingOrder := by
  intro s m base slots ha hf hinv hh hwf hi hl hs hrint hlen p at_ hframes herrors hend
  have hnot : s.dev.devState ≠ .stopped := by rw [hs]; decide
  have hslots : ∀ j o, slots[j]? = some o → SlotHas s.cfg base (at_ j) s.mem o
    | j, some b, ho => hframes j b ho
    | j, none, ho => herrors j ho
  have hfuel : slots.length < drainBound { s with dev := flagsTaken s.dev } := by
    have hnone : s.interleave = [] := ha.undisturbed
    simp only [drainBound, hnone, List.flatten_nil, List.length_nil]
    omega
  obtain ⟨t, hrun, ht⟩ := drainLoop_drains (s := { s with dev := flagsTaken s.dev }) slots ⟨ha.live, ha.undisturbed⟩
    ⟨hh.region, hh.inside, hh.rxCur, hh.txCur⟩ hwf hl hfuel hlen hslots hend fun t => .next (served s.dev t)
  refine ⟨served s.dev t, ?_, ht.env, ?_, ?_, ?_, ht.delivered, ht.dropped, ht.armed, ht.mem, ht.dev, ht.faults,
    ht.refusal.trans ha.live, ht.cfg⟩
  · rw [exec_isr_serves ha hf hinv hnot hi, serviceIdon_skip, serviceRint_drain ((getLsbD_rint_read _).trans hrint)]
    · exact hrun
    · rintro ⟨-, h⟩
      rw [show s.ctl.lc = .initializing from h] at hl
      cases hl
  · exact congrArg (·.rxCur) ht.ctl
  · exact congrArg (·.txCur) ht.ctl
  · exact (congrArg (·.lc) ht.ctl).trans hl

end Sys2Proof.Machine
end

section
/-!
PROOF. Proofs of the statements of 44_driver_core.md about ATTACH: one whose draws succeed (O38), and one that fails (O39;
R188, R311, R312).
-/

namespace Sys2Proof.Machine

/-! ### The initialization block of a memory that changes elsewhere -/

theorem read64_congr {m m' : Memory} {a : Nat} (h : ∀ x, a ≤ x → x < a + 8 → readByte m' x = readByte m x) :
    read64 m' a = read64 m a := by
  unfold read64
  rw [read32_congr fun x h1 h2 => h x (by omega) (by omega), read32_congr fun x h1 h2 => h x (by omega) (by omega)]

/-- The block is unchanged where its 32 bytes are. -/
theorem InitBlockAt.congr {p : Params} {base : Nat} {mac : BitVec 48} {m m' : Memory} (h : InitBlockAt p base mac m)
    (hs : ∀ x, base ≤ x → x < base + 32 → readByte m' x = readByte m x) : InitBlockAt p base mac m' where
  mode := (read16_congr (hs _ (by omega) (by omega)) (hs _ (by omega) (by omega))).trans h.mode
  rlen := (hs _ (by omega) (by omega)).trans h.rlen
  tlen := (hs _ (by omega) (by omega)).trans h.tlen
  padr := (readBytes_congr _ _ fun x _ _ => hs x (by omega) (by omega)).trans h.padr
  reserved := (read16_congr (hs _ (by omega) (by omega)) (hs _ (by omega) (by omega))).trans h.reserved
  ladrf := (read64_congr fun x _ _ => hs x (by omega) (by omega)).trans h.ladrf
  rdra := (read32_congr fun x _ _ => hs x (by omega) (by omega)).trans h.rdra
  tdra := (read32_congr fun x _ _ => hs x (by omega) (by omega)).trans h.tdra
  padding := (read32_congr fun x _ _ => hs x (by omega) (by omega)).trans h.padding

/-! ### The width probe (R187, R188) -/

section Probe

variable {s : State} (ha : s.Alone)

include ha

/-- A read of the probe, answered by a device. -/
theorem probeRead_answered (hd : s.env.platform.deviceAnswers = true) (z : BitVec 2) (o : BitVec 5)
    (k : Word → State → Out) : probeRead z o s k = k (portRead z o s).1 (portRead z o s).2 := by
  rw [probeRead, if_pos hd, ctlRead_alone ha.undisturbed ha.live]

theorem probeWrite_answered (hd : s.env.platform.deviceAnswers = true) (z : BitVec 2) (o : BitVec 5) (v : Word)
    (k : State → Out) : probeWrite z o v s k = k (portWrite z o v s) := by
  rw [probeWrite, if_pos hd, ctlWrite_alone ha.undisturbed ha.live]

/-- A read of the probe in a window with no device. -/
theorem probeRead_absent (hd : s.env.platform.deviceAnswers = false) (z : BitVec 2) (o : BitVec 5)
    (k : Word → State → Out) : probeRead z o s k = k (allOnes (sizeBytes z)) s := by
  rw [probeRead, hd, if_neg Bool.false_ne_true, boundary_alone ha.undisturbed ha.live]

theorem probeWrite_absent (hd : s.env.platform.deviceAnswers = false) (z : BitVec 2) (o : BitVec 5) (v : Word)
    (k : State → Out) : probeWrite z o v s k = k s := by
  rw [probeWrite, hd, if_neg Bool.false_ne_true, boundary_alone ha.undisturbed ha.live]

end Probe

/-- The state after a probe that a device has answered: S_RESET, and RAP holding the probe value (R187). -/
def probed (s : State) : State := writeRap s.cfg.probeValue (readReset s)

/-- RAP holds a value of one byte as it was written. -/
theorem readRap_probed {s : State} (hp : s.cfg.probeValue.toNat < 256) :
    readRap (probed s) = s.cfg.probeValue.setWidth 32 := by
  show ((s.cfg.probeValue.extractLsb' 0 8).setWidth 32 : Word) = _
  apply BitVec.eq_of_toNat_eq
  simp only [BitVec.toNat_setWidth, BitVec.extractLsb'_toNat, Nat.shiftRight_zero]
  omega

theorem probeValue_ne_allOnes {v : Half} (hp : v.toNat < 256) : v ≠ 0xFFFF := by
  rintro rfl
  exact absurd hp (by decide)

/-- The probe selects the width that the decoder answers in. -/
theorem probeWidth_answered {s : State} (ha : s.Alone) (hd : s.env.platform.deviceAnswers = true)
    (hp : s.cfg.probeValue.toNat < 256) (k : Option AccessMode → State → Out) :
    probeWidth s k = k (some (if s.dev.dwio then .dword else .word)) (probed s) := by
  unfold probeWidth
  dsimp only
  cases hm : s.dev.dwio with
  | false =>
    rw [probeRead_answered ha hd, portRead_reset_wio hm,
      probeWrite_answered (s := readReset s) ⟨ha.live, ha.undisturbed⟩ hd,
      portWrite_rap_wio (s := readReset s) hm, registerData_setWidth,
      show writeRap s.cfg.probeValue (readReset s) = probed s from rfl,
      probeRead_answered (s := probed s) ⟨ha.live, ha.undisturbed⟩ hd, portRead_rap_wio (s := probed s) hm,
      readRap_probed hp, if_pos rfl]
    rfl
  | true =>
    have hword : ¬ ((0xFFFF : Word) = s.cfg.probeValue.setWidth 32) := fun h =>
      probeValue_ne_allOnes hp ((registerData_setWidth _).symm.trans (congrArg registerData h.symm))
    rw [probeRead_answered ha hd, portRead_word_dwio hm _ (Or.inl rfl), probeWrite_answered ha hd,
      portWrite_word_dwio hm, probeRead_answered ha hd, portRead_word_dwio hm _ (Or.inr rfl), if_neg hword,
      probeRead_answered ha hd, portRead_reset_dwio hm,
      probeWrite_answered (s := readReset s) ⟨ha.live, ha.undisturbed⟩ hd,
      portWrite_rap_dwio (s := readReset s) hm, registerData_setWidth,
      show writeRap s.cfg.probeValue (readReset s) = probed s from rfl,
      probeRead_answered (s := probed s) ⟨ha.live, ha.undisturbed⟩ hd, portRead_rap_dwio (s := probed s) hm,
      readRap_probed hp, registerData_setWidth]
    exact if_pos rfl

/-- In a window with no device the probe finds none, and nothing has changed (R188). -/
theorem probeWidth_absent {s : State} (ha : s.Alone) (hd : s.env.platform.deviceAnswers = false)
    (hp : s.cfg.probeValue.toNat < 256) (k : Option AccessMode → State → Out) : probeWidth s k = k none s := by
  have hones : registerData (allOnes (sizeBytes szDword)) = 0xFFFF := rfl
  have hword : ¬ (allOnes (sizeBytes szWord) = s.cfg.probeValue.setWidth 32) := fun h =>
    probeValue_ne_allOnes hp ((registerData_setWidth _).symm.trans (congrArg registerData h.symm))
  unfold probeWidth
  dsimp only
  rw [probeRead_absent ha hd, probeWrite_absent ha hd, probeRead_absent ha hd, if_neg hword, probeRead_absent ha hd,
    probeWrite_absent ha hd, probeRead_absent ha hd, hones, if_neg (probeValue_ne_allOnes hp).symm]

/-! ### The station address (R311) -/

/-- Bytes of the address PROM, read one after another. -/
theorem readStation_alone (offs : List (BitVec 4)) (acc : List Byte) {s : State} (ha : s.Alone)
    (k : List Byte → State → Out) :
    readStation (offs.map (·.setWidth 5)) acc s k = k (acc ++ offs.map (apromByte s.cfg)) s := by
  induction offs generalizing acc with
  | nil => simp [readStation]
  | cons o offs ih =>
    have hbyte : ((apromByte s.cfg o).setWidth 32 : Word).extractLsb' 0 8 = apromByte s.cfg o := by
      apply BitVec.eq_of_toNat_eq
      have := (apromByte s.cfg o).isLt
      simp only [BitVec.extractLsb'_toNat, BitVec.toNat_setWidth, Nat.shiftRight_zero]
      omega
    rw [List.map_cons, readStation, ctlRead_alone ha.undisturbed ha.live, portRead_aprom]
    dsimp only
    rw [ih, hbyte, List.append_assoc]
    rfl

/-- The burned-in station address. -/
def stationAddress (p : Params) : BitVec 48 :=
  addressOf (p.aprom.get 0) (p.aprom.get 1) (p.aprom.get 2) (p.aprom.get 3) (p.aprom.get 4) (p.aprom.get 5)

/-- The state after the access mode and the station address are known. -/
def stationed (m : AccessMode) (s : State) : State :=
  { s with ctl := { s.ctl with accessMode := some m, mac := some (stationAddress s.cfg) } }

section Station

variable {s : State} (ha : s.Alone) (m : AccessMode)

include ha

theorem attachStation_noMemory (hg : s.env.platform.alloc = none) :
    attachStation m s = finish (.attachError .noMemory) (dropClaims (stationed m s)) := by
  unfold attachStation
  refine (readStation_alone [0, 1, 2, 3, 4, 5] [] (s := { s with ctl := { s.ctl with accessMode := some m } })
    ⟨ha.live, ha.undisturbed⟩ _).trans ?_
  dsimp only
  rw [hg]
  rfl

theorem attachStation_region {base : Nat} (hg : s.env.platform.alloc = some base) :
    attachStation m s = attachRegion base (stationAddress s.cfg) (stationed m s) := by
  unfold attachStation
  refine (readStation_alone [0, 1, 2, 3, 4, 5] [] (s := { s with ctl := { s.ctl with accessMode := some m } })
    ⟨ha.live, ha.undisturbed⟩ _).trans ?_
  dsimp only
  rw [hg]
  rfl

end Station

/-! ### The region built (R290, R312) -/

/-- The block is written, and no byte outside its 32. -/
theorem writeInitBlock_writes (base : Nat) (mac : BitVec 48) (s : State) :
    ∃ m, writeInitBlock base mac s = { s with mem := m } ∧ InitBlockAt s.cfg base mac m ∧
      SameOutside base 32 s.mem m := by
  refine ⟨(writeInitBlock base mac s).mem, ?_, writeInitBlock_initBlockAt base mac s, fun x hx => ?_⟩
  · rw [writeInitBlock_mem]
    rfl
  · rw [writeInitBlock_mem]
    exact readByte_writeBytes_outside _ _ _ _ (by rw [initBlockBytes_length]; omega)

/-- Construction on a STOPPED device: the block and both rings, and no byte outside them. -/
theorem construct_alone {base : Nat} {s : State} (ha : s.Alone) (hst : s.dev.devState = .stopped) (mac : BitVec 48)
    (k : State → Out) :
    ∃ m, construct base mac s k = k { s with mem := m, ctl := { s.ctl with rxCur := 0, txCur := 0 } } ∧
      InitBlockAt s.cfg base mac m ∧ (∀ i < rxLen s.cfg, RxArmed s.cfg base i m) ∧
      (∀ i < txLen s.cfg, TxEmpty s.cfg base i m) ∧ SameOutside base (rxBufOff s.cfg) s.mem m := by
  obtain ⟨w, hw, hblock, houtside⟩ := writeInitBlock_writes base mac s
  obtain ⟨m, hrun, hrx, htx, hm⟩ := setUpRings_alone (base := base) (s := { s with mem := w })
    ⟨ha.live, ha.undisturbed⟩ hst k
  have hring : rxRingOff = 32 := rfl
  have hbuf : rxBufOff s.cfg = 32 + 16 * (rxLen s.cfg + txLen s.cfg) := by
    simp only [rxBufOff, txRingOff, hring, descSize]
    omega
  refine ⟨m, ?_, hblock.congr fun x h1 h2 => hm x (by omega), hrx, htx, fun x hx => ?_⟩
  · rw [construct, hw, boundary_alone (by exact ha.undisturbed) (by exact ha.live), hrun]
  · exact (hm x (by dsimp only; omega)).trans (houtside x (by omega))

/-- The last part of ATTACH, with a base of R312 on a STOPPED device. -/
theorem attachRegion_builds {base : Nat} {s : State} (ha : s.Alone) (hst : s.dev.devState = .stopped)
    (hregion : regionOk s.cfg base = true) (mac : BitVec 48) :
    ∃ m, attachRegion base mac s = .next { s with
        mem := m
        ctl := { s.ctl with
          lc := .attached, region := some ⟨base, regionSize s.cfg⟩, rxCur := 0, txCur := 0, counters := Counters.zero }
        result := .ok } ∧
      InitBlockAt s.cfg base mac m ∧ (∀ i < rxLen s.cfg, RxArmed s.cfg base i m) ∧
      (∀ i < txLen s.cfg, TxEmpty s.cfg base i m) ∧ SameOutside base (rxBufOff s.cfg) s.mem m := by
  obtain ⟨m, hrun, hbuilt⟩ := construct_alone (base := base)
    (s := { s with ctl := { s.ctl with region := some ⟨base, regionSize s.cfg⟩, counters := Counters.zero } })
    ⟨ha.live, ha.undisturbed⟩ hst mac fun s => finish .ok (setLc .attached s)
  refine ⟨m, ?_, hbuilt⟩
  rw [attachRegion, if_pos hregion, boundary_alone (by exact ha.undisturbed) (by exact ha.live)]
  exact hrun

/-! ### The claims (R311) -/

/-- The state with the IRQ and the ports claimed. -/
def claimed (s : State) : State := claimIo (registerIrq s)

/-- The rest of ATTACH once the probe has answered. -/
def attachProbed (m : Option AccessMode) (s : State) : Out :=
  match m with
  | none => finish (.attachError .notRecognized) (dropClaims s)
  | some m => attachStation m s

section Claims

variable {s : State} (ha : s.Alone)

include ha

theorem exec_attach_unattached (hl : s.ctl.lc = .unattached) : exec .attach s = attachSteps s := by
  show execAttach s = _
  rw [execAttach, whenLive_live ha.live, if_pos hl]

omit ha in
theorem attachSteps_noBaseAddress (h1 : s.env.platform.ioBaseKnown = false) :
    attachSteps s = finish (.attachError .noBaseAddress) s := by
  rw [attachSteps, h1]
  rfl

theorem attachSteps_irqUnavailable (h1 : s.env.platform.ioBaseKnown = true)
    (h2 : s.env.platform.irqAvailable = false) :
    attachSteps s = finish (.attachError .irqUnavailable) s := by
  rw [attachSteps, h1]
  simp only [Bool.not_true, Bool.false_eq_true, if_false, boundary_alone ha.undisturbed ha.live, h2, Bool.not_false,
    if_true]

theorem attachSteps_ioUnavailable (h1 : s.env.platform.ioBaseKnown = true) (h2 : s.env.platform.irqAvailable = true)
    (h3 : s.env.platform.ioAvailable = false) :
    attachSteps s = finish (.attachError .ioUnavailable) (dropClaims (registerIrq s)) := by
  rw [attachSteps, h1]
  simp only [Bool.not_true, Bool.false_eq_true, if_false, boundary_alone ha.undisturbed ha.live, h2]
  rw [boundary_alone (by exact ha.undisturbed) (by exact ha.live)]
  exact if_pos (congrArg (!·) h3)

theorem attachSteps_claims (h1 : s.env.platform.ioBaseKnown = true) (h2 : s.env.platform.irqAvailable = true)
    (h3 : s.env.platform.ioAvailable = true) : attachSteps s = probeWidth (claimed s) attachProbed := by
  rw [attachSteps, h1]
  simp only [Bool.not_true, Bool.false_eq_true, if_false, boundary_alone ha.undisturbed ha.live, h2]
  rw [boundary_alone (by exact ha.undisturbed) (by exact ha.live)]
  refine (if_neg ?_).trans ?_
  · show ¬ (!s.env.platform.ioAvailable) = true
    rw [h3]
    exact Bool.false_ne_true
  · rw [boundary_alone (by exact ha.undisturbed) (by exact ha.live)]
    rfl

/-- ATTACH of a device that answers, up to the probe. -/
theorem attachSteps_probes (h1 : s.env.platform.ioBaseKnown = true) (h2 : s.env.platform.irqAvailable = true)
    (h3 : s.env.platform.ioAvailable = true) (hd : s.env.platform.deviceAnswers = true)
    (hp : s.cfg.probeValue.toNat < 256) :
    attachSteps s = attachStation (if s.dev.dwio then .dword else .word) (probed (claimed s)) := by
  rw [attachSteps_claims ha h1 h2 h3, probeWidth_answered (s := claimed s) ⟨ha.live, ha.undisturbed⟩ hd hp]
  rfl

end Claims

/-- Settles O38: the claims, the probe, the station address, and then the region (`attachRegion_builds`). -/
theorem attachBuildsTheRegion : Obligations.AttachBuildsTheRegion := by
  intro s base ha hl h1 h2 h3 hd hg hregion hp p mac
  have hstation := attachStation_region (s := probed (claimed s)) ⟨ha.live, ha.undisturbed⟩
    (if s.dev.dwio then .dword else .word) hg
  obtain ⟨m, hrun, hbuilt⟩ := attachRegion_builds (base := base)
    (s := stationed (if s.dev.dwio then .dword else .word) (probed (claimed s))) ⟨ha.live, ha.undisturbed⟩ rfl hregion mac
  exact ⟨_, (exec_attach_unattached ha hl).trans ((attachSteps_probes ha h1 h2 h3 hd hp).trans (hstation.trans hrun)),
    rfl, hbuilt⟩

/-- Settles O39: each failing draw ends ATTACH where it is made, with the claims dropped. -/
theorem attachFailsWithoutLeak : Obligations.AttachFailsWithoutLeak := by
  intro s ha hl hregion hio hirq hp g probed fails
  refine ⟨fun h1 => ?noBaseAddress, fun h1 h2 => ?irqUnavailable, fun h1 h2 h3 => ?ioUnavailable,
    fun h1 h2 h3 hd => ?notRecognized, fun h1 h2 h3 hd => ⟨fun hg => ?noMemory, fun base hg hbad => ?badRegion⟩⟩
  case noBaseAddress =>
    exact ⟨_, (exec_attach_unattached ha hl).trans (attachSteps_noBaseAddress h1), rfl, hl, hregion, hio, hirq, rfl,
      rfl, rfl, rfl, ha.live⟩
  case irqUnavailable =>
    exact ⟨_, (exec_attach_unattached ha hl).trans (attachSteps_irqUnavailable ha h1 h2), rfl, hl, hregion, hio, hirq,
      rfl, rfl, rfl, rfl, ha.live⟩
  case ioUnavailable =>
    exact ⟨_, (exec_attach_unattached ha hl).trans (attachSteps_ioUnavailable ha h1 h2 h3), rfl, hl, hregion, rfl, rfl,
      rfl, rfl, rfl, rfl, ha.live⟩
  case notRecognized =>
    have hprobe := probeWidth_absent (s := claimed s) ⟨ha.live, ha.undisturbed⟩ hd hp attachProbed
    exact ⟨_, (exec_attach_unattached ha hl).trans ((attachSteps_claims ha h1 h2 h3).trans hprobe), rfl, hl, hregion, rfl,
      rfl, rfl, rfl, rfl, rfl, ha.live⟩
  case noMemory =>
    have hstation := attachStation_noMemory (s := Machine.probed (claimed s)) ⟨ha.live, ha.undisturbed⟩
      (if s.dev.dwio then .dword else .word) hg
    exact ⟨_, (exec_attach_unattached ha hl).trans ((attachSteps_probes ha h1 h2 h3 hd hp).trans hstation), rfl, hl,
      hregion, rfl, rfl, rfl, rfl, rfl, rfl, ha.live⟩
  case badRegion =>
    have hstation := attachStation_region (s := Machine.probed (claimed s)) ⟨ha.live, ha.undisturbed⟩
      (if s.dev.dwio then .dword else .word) hg
    refine ⟨_, (exec_attach_unattached ha hl).trans ((attachSteps_probes ha h1 h2 h3 hd hp).trans
      (hstation.trans (if_neg ?_))), rfl, rfl, rfl⟩
    exact fun h => Bool.false_ne_true (hbad.symm.trans h)

end Sys2Proof.Machine
end

section
/-!
PROOF. Proofs of the statements of 44_driver_core.md about INITIALIZE (O40; R314) and about the way from ATTACH to RUNNING
(O41; R454, R455).
-/

namespace Sys2Proof.Machine

/-! ### The register writes of INITIALIZE (R314) -/

section Registers

variable {s : State} {m : AccessMode} (ha : s.Alone) (hm : s.dev.dwio = (m == .dword))
  (hs : s.dev.devState = .stopped)

include ha hm hs

/-- The software style of a STOPPED device (R215). -/
theorem setBcr_style (k : State → Out) :
    setBcr m 20 0x0002 s k = k { s with dev := { s.dev with rap := 20, swstyle := 2 } } := by
  have hstyle : bcrWrite { s.dev with rap := 20 } 20 0x0002 = { s.dev with rap := 20, swstyle := 2 } := if_pos hs
  rw [setBcr_alone hm ha.undisturbed ha.live, ← hstyle]
  rfl

/-- The lower half of the block's address (R211). -/
theorem setCsr_addressLow (base : Nat) (k : State → Out) :
    setCsr m 1 ((initBlockAddr base).extractLsb' 0 16 |>.setWidth 32) s k =
      k { s with dev := { s.dev with rap := 1, csr1 := BitVec.ofNat 16 base } } := by
  have hlow : csrWrite { s.dev with rap := 1 } 1 (BitVec.ofNat 16 base) =
      { s.dev with rap := 1, csr1 := BitVec.ofNat 16 base } := if_pos hs
  rw [setCsr_alone hm ha.undisturbed ha.live, registerData_initBlock_low, ← hlow]
  rfl

/-- The upper half of the block's address (R211). -/
theorem setCsr_addressHigh (base : Nat) (k : State → Out) :
    setCsr m 2 ((initBlockAddr base).extractLsb' 16 16 |>.setWidth 32) s k =
      k { s with dev := { s.dev with rap := 2, csr2 := BitVec.ofNat 16 (base / 65536) } } := by
  have hhigh : csrWrite { s.dev with rap := 2 } 2 (BitVec.ofNat 16 (base / 65536)) =
      { s.dev with rap := 2, csr2 := BitVec.ofNat 16 (base / 65536) } := if_pos hs
  rw [setCsr_alone hm ha.undisturbed ha.live, registerData_initBlock_high, ← hhigh]
  rfl

/-- INIT with IENA, given to a STOPPED device that shows no flag (R205). -/
theorem setCsr_init (hc : s.dev.csr0 = Csr0.clear) (k : State → Out) :
    setCsr m 0 0x0041 s k = k { s with dev := { s.dev with
      rap := 0, devState := .initPending, pendingStart := false, atStop := false
      csr0 := { Csr0.clear with init := true, iena := true } } } := by
  have hack : acknowledged { s.dev with rap := 0 } 0x0041 =
      { s.dev with rap := 0, csr0 := { Csr0.clear with iena := true }, atStop := false } := by
    simp [acknowledged, acknowledge, hc, Csr0.clear]
  have hnostart : (0x0041 : Half).getLsbD 1 = false := by decide
  have hnodemand : (0x0041 : Half).getLsbD 3 = false := by decide
  have hinit : csrWrite { s.dev with rap := 0 } 0 0x0041 = { s.dev with
      rap := 0, devState := .initPending, pendingStart := false, atStop := false
      csr0 := { Csr0.clear with init := true, iena := true } } := by
    rw [csrWrite_zero_commands _ (by decide), commandTdmd_eq,
      commandInitStrt_init (d := acknowledged { s.dev with rap := 0 } 0x0041) hs (by decide), hack, hnostart, hnodemand]
    rfl
  rw [setCsr_alone hm ha.undisturbed ha.live, ← hinit]
  rfl

end Registers

/-! ### INITIALIZE (R314) -/

/-- The device to which INITIALIZE has given the block at `base` and INIT. -/
def initGiven (base : Nat) (d : Dev) : Dev :=
  { d with
    devState := .initPending, pendingStart := false, csr0 := { Csr0.clear with init := true, iena := true }
    csr4 := ⟨false, false⟩, csr15 := 0, csr112 := 0, rap := 0, swstyle := 2, atStop := false
    csr1 := BitVec.ofNat 16 base, csr2 := BitVec.ofNat 16 (base / 65536) }

/-- The state of an undisturbed INITIALIZE from `s`, when the memory is `mem` after the set-up of the rings. -/
def initIssued (base : Nat) (mem : Memory) (s : State) : State :=
  { s with
    dev := initGiven base s.dev
    ctl := { s.ctl with lc := .initializing, rxCur := 0, txCur := 0 }
    resetReads := s.resetReads + 1
    result := .ok
    mem := mem }

theorem initializeSteps_alone {s : State} {m : AccessMode} (ha : s.Alone) (hm : s.dev.dwio = (m == .dword))
    (base : Nat) :
    ∃ mem, initializeSteps m base s = .next (initIssued base mem s) ∧ (∀ i < rxLen s.cfg, RxArmed s.cfg base i mem) ∧
      (∀ i < txLen s.cfg, TxEmpty s.cfg base i mem) ∧
      SameOutside (base + rxRingOff) (16 * (rxLen s.cfg + txLen s.cfg)) s.mem mem := by
  rw [initializeSteps, resetDevice_alone hm ha.undisturbed ha.live]
  obtain ⟨mem, hrun, hrings⟩ := setUpRings_alone (base := base) (s := readReset s) ⟨ha.live, ha.undisturbed⟩ rfl
    fun s => setBcr m 20 0x0002 s fun s =>
      setCsr m 1 ((initBlockAddr base).extractLsb' 0 16 |>.setWidth 32) s fun s =>
      setCsr m 2 ((initBlockAddr base).extractLsb' 16 16 |>.setWidth 32) s fun s =>
      setCsr m 0 0x0041 s fun s => finish .ok (setLc .initializing s)
  refine ⟨mem, hrun.trans ?_, hrings⟩
  rw [setBcr_style ⟨by exact ha.live, by exact ha.undisturbed⟩ (by exact hm) (by rfl),
    setCsr_addressLow ⟨by exact ha.live, by exact ha.undisturbed⟩ (by exact hm) (by rfl),
    setCsr_addressHigh ⟨by exact ha.live, by exact ha.undisturbed⟩ (by exact hm) (by rfl),
    setCsr_init ⟨by exact ha.live, by exact ha.undisturbed⟩ (by exact hm) (by rfl) (by rfl)]
  rfl

theorem exec_initialize_issues {s : State} {m : AccessMode} {base : Nat} (ha : s.Alone) (hf : s.Fits m)
    (hh : s.Holds base) (hl : s.ctl.lc = .attached ∨ s.ctl.lc = .disabled) :
    ∃ mem, exec .initializeOp s = .next (initIssued base mem s) ∧ (∀ i < rxLen s.cfg, RxArmed s.cfg base i mem) ∧
      (∀ i < txLen s.cfg, TxEmpty s.cfg base i mem) ∧
      SameOutside (base + rxRingOff) (16 * (rxLen s.cfg + txLen s.cfg)) s.mem mem := by
  obtain ⟨mem, hrun, hrings⟩ := initializeSteps_alone ha hf.decoder base
  refine ⟨mem, ?_, hrings⟩
  show execInitialize s = _
  rw [execInitialize, whenLive_live ha.live, if_pos (initializes_iff.mpr hl), withAccessMode_fits hf, withRegion_holds hh]
  exact hrun

/-- Settles O40: the reset, both rings, and one register write after another (`initializeSteps_alone`). -/
theorem initializeIssuesInit : Obligations.InitializeIssuesInit := by
  intro s m base ha hf hh hl p
  obtain ⟨mem, hrun, hrings⟩ := exec_initialize_issues ha hf hh hl
  exact ⟨_, hrun, rfl, hrings⟩

/-! ### The fetch that follows (R362) -/

/-- The two halves that INITIALIZE writes are the block's address (R83). -/
theorem csr2_append_csr1 (base : Nat) :
    (BitVec.ofNat 16 (base / 65536) ++ BitVec.ofNat 16 base : Word) = BitVec.ofNat 32 base := by
  apply BitVec.eq_of_toNat_eq
  rw [BitVec.toNat_append]
  simp only [BitVec.toNat_ofNat]
  rw [← Nat.shiftLeft_add_eq_or_of_lt (Nat.mod_lt _ (by decide)), Nat.shiftLeft_eq]
  omega

/-- The device that has fetched what INITIALIZE gave it. -/
def fetched (mem : Memory) (base : Nat) (d : Dev) : Dev := latchInitBlock mem base (initGiven base d)

section Fetched

variable {p : Params} {base : Nat} {mac : BitVec 48} {mem : Memory} (hblock : InitBlockAt p base mac mem)
  (hwf : p.wf = true) (hregion : regionOk p base = true)

include hblock hwf hregion

/-- The fetched device meets the invariant of the device (R34 to R37). -/
theorem fetched_inv (hloop : p.initMode.getLsbD 2 = false) (d : Dev) : (fetched mem base d).Inv := by
  have hholds := latchInitBlock_holds hblock hwf hregion (initGiven base d)
  have hlogs := Params.logs_le hwf
  have hbase : base % 16 = 0 := of_decide_eq_true (Bool.and_eq_true_iff.mp hregion).1
  have htx := txRingOff_aligned p
  have hrx : rxRingOff = 32 := rfl
  exact {
    rlen := by
      rw [fetched, hholds.rlen]
      exact ⟨rxLen_pos p, Nat.pow_le_pow_right (by decide) hlogs.1⟩
    tlen := by
      rw [fetched, hholds.tlen]
      exact ⟨txLen_pos p, Nat.pow_le_pow_right (by decide) hlogs.2⟩
    rxCurDev := by rw [fetched, hholds.rlen]; exact rxLen_pos p
    txCurDev := by rw [fetched, hholds.tlen]; exact txLen_pos p
    rdra := by rw [fetched, hholds.rdra]; omega
    tdra := by rw [fetched, hholds.tdra]; omega
    pendingStart := fun h => Bool.noConfusion h
    init := ⟨fun _ => DevState.noConfusion, fun _ => rfl⟩
    strt := ⟨fun h => Bool.noConfusion h, fun h => DevState.noConfusion h⟩
    rxon := fun h => Bool.noConfusion h
    txon := fun h => Bool.noConfusion h
    tdmd := fun h => Bool.noConfusion h
    style := fun _ => ⟨rfl, by rw [fetched, hholds.mode, hloop]⟩
    quiet := fun h => h.elim DevState.noConfusion DevState.noConfusion
    atStop := fun h => Bool.noConfusion h }

omit hwf in
/-- The device's step after INITIALIZE: it fetches the controller's block. -/
theorem agentStep_fetches {s : State} (hp : s.cfg = p) (hlive : s.refusal = none) (hfreed : s.ctl.freed = none)
    (hloop : p.initMode.getLsbD 2 = false) :
    agentStep .init (initIssued base mem s) =
      { initIssued base mem s with dev := fetched mem base s.dev } := by
  have hiadr : iadr (initIssued base mem s).dev = base := iadr_eq (csr2_append_csr1 base) hregion
  have hdma : dmaOk (initIssued base mem s).cfg base 28 = true := by
    rw [show (initIssued base mem s).cfg = p from hp]
    exact dmaOk_initBlock hregion
  have hmode : (read16 (initIssued base mem s).mem base).getLsbD 2 = false := by
    rw [show (initIssued base mem s).mem = mem from rfl, hblock.mode, hloop]
  rw [agentStep_live (s := initIssued base mem s) hlive (barred_of_freed_none _ hfreed), takeStep,
    if_pos (show (initIssued base mem s).dev.devState = .initPending from rfl), devInit_latches hiadr rfl hdma hmode]
  rfl

end Fetched

/-! ### Bring-up (R454, R455) -/

/-- Settles O41: ATTACH (O38), INITIALIZE (O40), the fetch (`agentStep_fetches`), and the service of the INITED device
(`exec_isr_starts`); the fetch and the service leave memory alone. -/
theorem bringUpReachesRunning : Obligations.BringUpReachesRunning := by
  intro s base ha hl h1 h2 h3 hd hg hregion hp hwf hmode hfreed p
  obtain ⟨t1, hattach, ht1, hblock1, -, -, -⟩ := attachBuildsTheRegion s base ha hl h1 h2 h3 hd hg hregion hp
  set m : AccessMode := if s.dev.dwio then .dword else .word with hm
  have ha1 : t1.Alone := by rw [ht1]; exact ⟨ha.live, ha.undisturbed⟩
  have hf1 : t1.Fits m := by
    rw [ht1]
    exact ⟨rfl, by rw [hm]; cases s.dev.dwio <;> rfl⟩
  have hh1 : t1.Holds base := by
    rw [ht1]
    exact ⟨rfl, regionOk_inside hregion, rxLen_pos p, txLen_pos p⟩
  have hcfg1 : t1.cfg = p := by rw [ht1]
  have hfreed1 : t1.ctl.freed = none := by rw [ht1]; exact hfreed
  have hloop : p.initMode.getLsbD 2 = false := by rw [show p.initMode = 0 from hmode]; decide
  obtain ⟨mem, hinit, hrx, htx, hsame⟩ := exec_initialize_issues ha1 hf1 hh1 (Or.inl (by rw [ht1]))
  rw [hcfg1] at hrx htx hsame
  have hblock := hblock1.congr fun x _ _ => hsame x (by rw [show rxRingOff = 32 from rfl]; omega)
  have hholds := latchInitBlock_holds hblock hwf hregion (initGiven base t1.dev)
  have hinv := fetched_inv hblock hwf hregion hloop t1.dev
  have hstarts := exec_isr_starts (s := { initIssued base mem t1 with dev := fetched mem base t1.dev }) (m := m)
    ⟨ha1.live, ha1.undisturbed⟩ ⟨hf1.mode, hf1.decoder⟩ hinv (by rw [ht1]; rfl) rfl rfl rfl rfl
  have hfetch := congrArg (exec .isr) (agentStep_fetches hblock hregion hcfg1 ha1.live hfreed1 hloop)
  have hzero : (fetched mem base t1.dev).csr15 = 0 := hholds.mode.trans hmode
  refine ⟨t1, _, _, hattach, hinit, hfetch.trans hstarts, rfl, rfl, ?_, ?_, hrx, htx, rfl, rfl, rfl, rfl, hholds.rdra,
    hholds.tdra, ?_, hzero, ?_⟩
  · exact congrArg (fun v : Half => !v.getLsbD 0) hzero
  · exact congrArg (fun v : Half => !v.getLsbD 1) hzero
  · show some (fetched mem base t1.dev).padr = t1.ctl.mac
    rw [fetched, hholds.padr, ht1]
  · show t1.faults = s.faults
    rw [ht1]

end Sys2Proof.Machine
end

section
/-!
PROOF. Proofs of the statements of 45_dma_engine.md about the fetch of the initialization block (O26, O27).
-/

namespace Sys2Proof.Machine

/-! ### Values latched from the block (R89, R90, R91) -/

/-- The octets of the address that six bytes make are these bytes (R91). -/
theorem addressBytes_addressOf (b0 b1 b2 b3 b4 b5 : Byte) :
    addressBytes (addressOf b0 b1 b2 b3 b4 b5) = [b0, b1, b2, b3, b4, b5] := by
  have low {n : Nat} (v : BitVec n) (b : Byte) : (v ++ b).extractLsb' 0 8 = b := BitVec.extractLsb'_append_eq_right
  have next {n k : Nat} {v : BitVec n} (b : Byte) {x : Byte} (h : v.extractLsb' k 8 = x) :
      (v ++ b).extractLsb' (k + 8) 8 = x := (BitVec.extractLsb'_append_eq_of_le (Nat.le_add_left 8 k)).trans h
  have top : b5.extractLsb' 0 8 = b5 := BitVec.extractLsb'_eq_self
  simp only [addressBytes, addressOf, List.cons.injEq]
  exact ⟨low _ _, next _ (low _ _), next _ (next _ (low _ _)), next _ (next _ (next _ (low _ _))),
    next _ (next _ (next _ (next _ (low _ _)))), next _ (next _ (next _ (next _ (next _ top)))), trivial⟩

/-- A ring length is read from the high four bits of its byte (R90). -/
theorem ringLength_high_bits (b : Byte) : ringLength (b.extractLsb' 4 4) = 2 ^ min (b.toNat / 16) 9 := by
  have hfield : (b.extractLsb' 4 4).toNat = b.toNat / 16 := by
    simp only [BitVec.extractLsb'_toNat, Nat.shiftRight_eq_div_pow]
    have := b.isLt
    omega
  rw [ringLength, hfield]

/-- A ring base is latched without its low four bits (R89). -/
theorem toNat_and_ringMask (w : Word) : (w &&& (0xFFFFFFF0 : Word)).toNat = w.toNat / 16 * 16 := by
  have hbit : ∀ i < 32, (0xFFFFFFF0 : Word).getLsbD i = decide (4 ≤ i) := by decide
  have hmask : w &&& (0xFFFFFFF0 : Word) = w >>> 4 <<< 4 := by
    apply BitVec.eq_of_getLsbD_eq
    intro i hi
    rw [BitVec.getLsbD_and, hbit i hi, BitVec.getLsbD_shiftLeft, BitVec.getLsbD_ushiftRight]
    rcases Nat.lt_or_ge i 4 with h | h
    · simp [h]
    · simp [h, hi, Nat.not_lt.mpr h]
  rw [hmask, BitVec.toNat_shiftLeft, BitVec.toNat_ushiftRight, Nat.shiftLeft_eq, Nat.shiftRight_eq_div_pow]
  have := w.isLt
  omega

/-! ### A remembered STRT (R35) -/

/-- What the fetch does with a remembered STRT: forget it, and start the device. -/
theorem startIfPending_eq (d : Dev) :
    startIfPending d = { d with
      pendingStart := false
      devState := if d.pendingStart then .running else d.devState
      csr0 := if d.pendingStart then
          { d.csr0 with strt := true, rxon := !d.csr15.getLsbD 0, txon := !d.csr15.getLsbD 1 }
        else d.csr0 } := by
  cases hp : d.pendingStart with
  | true => simp only [startIfPending, hp, if_true]; rfl
  | false =>
    simp only [startIfPending, hp, Bool.false_eq_true, if_false]
    rw [← hp]

/-! ### The fetch (R361, R362, R363) -/

theorem devInit_style {s : State} (hstyle : s.dev.swstyle ≠ 2) : devInit s = refuse .unsupportedStyle s :=
  if_pos hstyle

theorem devInit_fails {s : State} (hstyle : s.dev.swstyle = 2) (hdma : dmaOk s.cfg (iadr s.dev) 28 = false) :
    devInit s = { s with dev := initFail s.dev } := by
  rw [devInit, if_neg (not_not_intro hstyle)]
  simp only [hdma, Bool.not_false, if_true]

theorem devInit_loop {s : State} (hstyle : s.dev.swstyle = 2) (hdma : dmaOk s.cfg (iadr s.dev) 28 = true)
    (hloop : (read16 s.mem (iadr s.dev)).getLsbD 2 = true) : devInit s = refuse .loopback s := by
  rw [devInit, if_neg (not_not_intro hstyle)]
  simp only [hdma, hloop, Bool.not_true, Bool.false_eq_true, if_false, if_true]

/-- The step `dev.init` of a live run in INIT_PENDING, its block apart from a freed region, is the fetch. -/
theorem agentStep_init {s : State} (hlive : s.refusal = none) (hpending : s.dev.devState = .initPending)
    (hfreed : s.dev.swstyle = 2 → dmaOk s.cfg (iadr s.dev) 28 = true → meetsFreed s (iadr s.dev, 28) = false) :
    agentStep .init s = devInit s := by
  rw [agentStep_live hlive (barred_init_false hfreed), takeStep, if_pos hpending]

/-- Settles O26: the style, the window and LOOP are asked for in this order (`devInit_style`, `devInit_fails`,
`devInit_loop`). -/
theorem initFetchThatLatchesNothing : Obligations.InitFetchThatLatchesNothing := by
  intro s hlive hpending a
  refine ⟨fun hstyle => ?style, fun hstyle hdma => ?window, fun hstyle hdma hfreed hloop => ?loop⟩
  case style => rw [agentStep_init hlive hpending fun h => absurd h hstyle, devInit_style hstyle, refuse]
  case window =>
    have hnoRead : dmaOk s.cfg (iadr s.dev) 28 ≠ true := Bool.eq_false_iff.mp hdma
    rw [agentStep_init hlive hpending fun _ h => absurd h hnoRead, devInit_fails hstyle hdma, initFail]
  case loop => rw [agentStep_init hlive hpending fun _ _ => hfreed, devInit_loop hstyle hdma hloop, refuse]

/-- Settles O27: `devInit_latches`, with what the block's bytes mean, and `startIfPending_eq` for the STRT. -/
theorem initFetchLatchesTheBlock : Obligations.InitFetchLatchesTheBlock := by
  intro s l r hlive hpending hstyle a hdma hfreed hloop hl hr t
  have ht : t = { s with dev := startIfPending (latchInitBlock s.mem a s.dev) } :=
    (agentStep_init hlive hpending fun _ _ => hfreed).trans (devInit_latches rfl hstyle hdma hloop)
  rw [startIfPending_eq] at ht
  rw [ht]
  refine ⟨⟨_, rfl⟩, rfl, ?rlen, ?tlen, addressBytes_addressOf .., rfl, toNat_and_ringMask _,
    toNat_and_ringMask _, rfl, rfl, rfl, fun hp => ⟨?_, ?_⟩, fun hp => ⟨?_, ?_⟩⟩
  case rlen => rw [← hl]; exact ringLength_high_bits _
  case tlen => rw [← hr]; exact ringLength_high_bits _
  all_goals simp only [latchInitBlock, hp, Bool.false_eq_true, if_true, if_false]

end Sys2Proof.Machine
end

section
/-!
PROOF. Proofs of the statements of 45_dma_engine.md about the TX poll (O29, O30, O31).
-/

namespace Sys2Proof.Machine

/-! ### A poll (R365) -/

/-- The device of a live run may poll, and the TX descriptor at its cursor is at `d`. -/
structure State.Polls (s : State) (d : Nat) : Prop where
  live : s.refusal = none
  running : s.dev.devState = .running
  txon : s.dev.csr0.txon = true
  cursor : s.dev.tdra.toNat + 16 * s.dev.txCurDev = d

/-- A poll clears TDMD (R365). -/
def tdmdCleared (s : State) : State := { s with dev := { s.dev with csr0 := { s.dev.csr0 with tdmd := false } } }

section Poll

variable {s : State} {d : Nat} (h : s.Polls d) (o : TxOutcome) (c : Bool)

include h

/-- A poll is `dev.tx` where what it reads is apart from a freed region. -/
theorem agentStep_tx (hfreed : dmaOk s.cfg d 16 = true → meetsFreed s (d, 16) = false)
    (hbuf : dmaOk s.cfg d 16 = true → deviceOwns s.mem d = true → ∀ n, wholeFrame (read16 s.mem d) = true →
      deviceLength (read16 s.mem (d + 2)) = some n → dmaOk s.cfg (read32 s.mem (d + 4)).toNat n = true →
      meetsFreed s ((read32 s.mem (d + 4)).toNat, n) = false) :
    agentStep (.tx o c) s = devTx o c s := by
  rw [agentStep_live h.live (barred_tx_false o c h.cursor hfreed hbuf), takeStep, if_pos ⟨h.running, h.txon⟩]

/-- A descriptor outside the window turns the transmitter off (R360, R365). -/
theorem agentStep_tx_outside (hdma : dmaOk s.cfg d 16 = false) :
    agentStep (.tx o c) s =
      { s with dev := { s.dev with csr0 := { s.dev.csr0 with tdmd := false, merr := true, txon := false } } } := by
  have hnot : dmaOk s.cfg d 16 ≠ true := Bool.eq_false_iff.mp hdma
  rw [agentStep_tx h o c (fun hok => absurd hok hnot) (fun hok => absurd hok hnot)]
  obtain ⟨-, -, -, rfl⟩ := h
  simp only [devTx, hdma, Bool.not_false, if_true]

/-- A software-owned descriptor is left as it is. -/
theorem agentStep_tx_unowned (hdma : dmaOk s.cfg d 16 = true) (hfreed : meetsFreed s (d, 16) = false)
    (ho : deviceOwns s.mem d = false) : agentStep (.tx o c) s = tdmdCleared s := by
  have hnot : deviceOwns s.mem d ≠ true := Bool.eq_false_iff.mp ho
  rw [agentStep_tx h o c (fun _ => hfreed) (fun _ how => absurd how hnot)]
  obtain ⟨-, -, -, rfl⟩ := h
  simp only [devTx, hdma, ho, Bool.not_true, Bool.not_false, Bool.false_eq_true, if_false, if_true]
  rfl

/-- A device-owned descriptor is handled. -/
theorem agentStep_tx_owned (hdma : dmaOk s.cfg d 16 = true) (hfreed : meetsFreed s (d, 16) = false)
    (ho : deviceOwns s.mem d = true)
    (hbuf : ∀ n, wholeFrame (read16 s.mem d) = true → deviceLength (read16 s.mem (d + 2)) = some n →
      dmaOk s.cfg (read32 s.mem (d + 4)).toNat n = true → meetsFreed s ((read32 s.mem (d + 4)).toNat, n) = false) :
    agentStep (.tx o c) s = txDescriptor o c s.dev.txCurDev d (tdmdCleared s) := by
  rw [agentStep_tx h o c (fun _ => hfreed) (fun _ _ => hbuf), devTx_owned o c h.cursor hdma ho]
  rfl

/-- The same, for a descriptor with an acceptable length `n`: the buffer read, if one is, is of that length. -/
theorem agentStep_tx_of_length {n : Nat} (hdma : dmaOk s.cfg d 16 = true) (hfreed : meetsFreed s (d, 16) = false)
    (ho : deviceOwns s.mem d = true) (hn : deviceLength (read16 s.mem (d + 2)) = some n)
    (hbuf : dmaOk s.cfg (read32 s.mem (d + 4)).toNat n = true →
      meetsFreed s ((read32 s.mem (d + 4)).toNat, n) = false) :
    agentStep (.tx o c) s = txDescriptor o c s.dev.txCurDev d (tdmdCleared s) := by
  refine agentStep_tx_owned h o c hdma hfreed ho fun k _ hk hok => ?_
  obtain rfl := Option.some.inj (hn.symm.trans hk)
  exact hbuf hok

/-- The same, for a malformed descriptor: no buffer is read. -/
theorem agentStep_tx_of_malformed (hdma : dmaOk s.cfg d 16 = true) (hfreed : meetsFreed s (d, 16) = false)
    (ho : deviceOwns s.mem d = true)
    (hbad : wholeFrame (read16 s.mem d) = false ∨ deviceLength (read16 s.mem (d + 2)) = none) :
    agentStep (.tx o c) s = txDescriptor o c s.dev.txCurDev d (tdmdCleared s) := by
  refine agentStep_tx_owned h o c hdma hfreed ho fun n hw hn => ?_
  simp [hw, hn] at hbad

end Poll

/-- Settles O31 (`agentStep_tx_unowned`, `agentStep_tx_outside`). -/
theorem txPollWithoutDescriptor : Obligations.TxPollWithoutDescriptor := by
  intro s o c hlive hrun htxon d
  have h : s.Polls d := ⟨hlive, hrun, htxon, rfl⟩
  exact ⟨agentStep_tx_unowned h o c, agentStep_tx_outside h o c⟩

/-! ### The length of a descriptor (R88) -/

theorem deviceLength_some {b : Half} (h : 1 ≤ dec16 b ∧ dec16 b ≤ 4095) : deviceLength b = some (dec16 b).toNat :=
  if_pos h

theorem deviceLength_none {b : Half} (h : dec16 b < 1 ∨ 4095 < dec16 b) : deviceLength b = none :=
  if_neg (by omega)

/-! ### Returning a descriptor (R365) -/

/-- What the return of a device-owned descriptor leaves: TINT and the cursor, and in memory its status word. -/
theorem txReturn_returns {s : State} {d : Nat} (ho : deviceOwns s.mem d = true) (i : Nat) (st : Half) :
    txReturn i d st s = { s with
      dev := { s.dev with csr0 := { s.dev.csr0 with tint := true }, txCurDev := (i + 1) % s.dev.tlen }
      mem := (txReturn i d st s).mem } ∧
    read16 (txReturn i d st s).mem d = st ∧ SameOutside d 2 s.mem (txReturn i d st s).mem := by
  refine ⟨?_, ?_, fun x hx => txReturn_outside hx⟩
  · rw [txReturn, claimDesc_allowed ho]
    rfl
  · rw [txReturn_mem_owned ho, read16_write16]

/-- The error bits an outcome gives the returned status word (R367). -/
def TxOutcome.errorBits (o : TxOutcome) : Half :=
  match o with
  | .ok => 0
  | .uflo => 0x6000
  | .lcol => 0x5000

/-- What is put on the wire, and BABL, for an outcome (R367, R369). -/
def wireAfter (o : TxOutcome) (frame : List Byte) (s : State) : State :=
  { s with
    env := { s.env with txOut := s.env.txOut ++ if o = .ok then [frame] else [] }
    dev := { s.dev with
      csr0 := { s.dev.csr0 with
        babl := s.dev.csr0.babl || (o == .ok && decide (frame.length > s.cfg.txBabbleLimit)) } } }

theorem txOutcomeStep_eq (o : TxOutcome) (frame : List Byte) (st : Half) (s : State) :
    txOutcomeStep o frame st s = (o.errorBits ||| framing st, wireAfter o frame s) := by
  have hidle (h : o ≠ .ok) : wireAfter o frame s = s := by
    have hbeq : (o == TxOutcome.ok) = false := beq_false_of_ne h
    simp only [wireAfter, if_neg h, hbeq, List.append_nil, Bool.false_and, Bool.or_false]
  cases o with
  | ok =>
    rw [show TxOutcome.ok.errorBits ||| framing st = framing st from BitVec.zero_or]
    rfl
  | uflo =>
    rw [hidle nofun]
    rfl
  | lcol =>
    rw [hidle nofun]
    rfl

/-! ### A device-owned descriptor (R365, R366, R368) -/

/-- CERR as the collision draw leaves it (R367). -/
def collided (c : Bool) (s : State) : State :=
  { s with dev := { s.dev with csr0 := { s.dev.csr0 with cerr := s.dev.csr0.cerr || c } } }

section Descriptor

variable {s : State} {d : Nat} (o : TxOutcome) (c : Bool) (i : Nat)

theorem txDescriptor_sent {n : Nat} (hw : wholeFrame (read16 s.mem d) = true)
    (hn : deviceLength (read16 s.mem (d + 2)) = some n) (hbuf : dmaOk s.cfg (read32 s.mem (d + 4)).toNat n = true) :
    txDescriptor o c i d s =
      txReturn i d (o.errorBits ||| framing (read16 s.mem d))
        (wireAfter o (readBytes s.mem (read32 s.mem (d + 4)).toNat n) (collided c s)) := by
  simp only [txDescriptor, hw, hn, hbuf, Bool.not_true, Bool.false_eq_true, if_false, txOutcomeStep_eq]
  rfl

theorem txDescriptor_badBuffer {n : Nat} (hw : wholeFrame (read16 s.mem d) = true)
    (hn : deviceLength (read16 s.mem (d + 2)) = some n) (hbuf : dmaOk s.cfg (read32 s.mem (d + 4)).toNat n = false) :
    txDescriptor o c i d s = txReturn i d (0x4800 ||| framing (read16 s.mem d)) { s with dev := setMerr s.dev } := by
  simp only [txDescriptor, hw, hn, hbuf, Bool.not_false, if_true]

theorem txDescriptor_malformed
    (h : wholeFrame (read16 s.mem d) = false ∨ deviceLength (read16 s.mem (d + 2)) = none) :
    txDescriptor o c i d s = txReturn i d (0x4000 ||| framing (read16 s.mem d)) s := by
  rcases h with hw | hn
  · simp only [txDescriptor, hw]
  · cases hw : wholeFrame (read16 s.mem d) <;> simp only [txDescriptor, hw, hn]

end Descriptor

/-- Settles O29: the descriptor is handled as `txDescriptor_sent` says and returned as `txReturn_returns` says. -/
theorem txPollReturnsTheFrame : Obligations.TxPollReturnsTheFrame := by
  intro s o c n hlive hrun htxon d st ba hdma hown hstp henp hlen hmin hmax hbuf hfreed hbufFreed t
  have hpolls : s.Polls d := ⟨hlive, hrun, htxon, rfl⟩
  have hwhole : wholeFrame st = true := Bool.and_eq_true_iff.mpr ⟨hstp, henp⟩
  have hn : deviceLength (read16 s.mem (d + 2)) = some n := by
    rw [deviceLength_some (by omega), hlen, Int.toNat_natCast]
  have ht := (agentStep_tx_of_length hpolls o c hdma hfreed hown hn fun _ => hbufFreed).trans
    (txDescriptor_sent (s := tdmdCleared s) o c s.dev.txCurDev hwhole hn hbuf)
  obtain ⟨hstate, hstatus, hsame⟩ :=
    txReturn_returns (d := d) (s := wireAfter o (readBytes s.mem ba n) (collided c (tdmdCleared s))) hown
      s.dev.txCurDev (o.errorBits ||| framing st)
  rw [show t = _ from ht]
  refine ⟨hstate.trans ?_, hstatus.trans ?_, hsame⟩
  · simp only [wireAfter, readBytes_length]
    rfl
  · cases o <;> rfl

/-- Settles O30: each fault of the descriptor is one branch of `txDescriptor`, and each returns it
(`txReturn_returns`). -/
theorem txPollReturnsBadDescriptors : Obligations.TxPollReturnsBadDescriptors := by
  intro s o c hlive hrun htxon d st ba n hdma hfreed hown t malformed
  have hpolls : s.Polls d := ⟨hlive, hrun, htxon, rfl⟩
  refine ⟨fun hmal => ?malformed, fun hwell hbuf => ?badBuffer⟩
  case malformed =>
    have hbad : wholeFrame st = false ∨ deviceLength (read16 s.mem (d + 2)) = none := by
      rcases hmal with hstp | henp | hn
      · exact .inl (Bool.and_eq_false_iff.mpr (.inl hstp))
      · exact .inl (Bool.and_eq_false_iff.mpr (.inr henp))
      · exact .inr (deviceLength_none hn)
    have ht := (agentStep_tx_of_malformed hpolls o c hdma hfreed hown hbad).trans
      (txDescriptor_malformed (s := tdmdCleared s) o c s.dev.txCurDev hbad)
    rw [show t = _ from ht]
    exact txReturn_returns (s := tdmdCleared s) hown _ _
  case badBuffer =>
    simp only [malformed, not_or, Bool.not_eq_false, not_lt] at hwell
    obtain ⟨hstp, henp, hmin, hmax⟩ := hwell
    have hwhole : wholeFrame st = true := Bool.and_eq_true_iff.mpr ⟨hstp, henp⟩
    have hn : deviceLength (read16 s.mem (d + 2)) = some n.toNat := deviceLength_some ⟨hmin, hmax⟩
    have hnot : dmaOk s.cfg ba n.toNat ≠ true := Bool.eq_false_iff.mp hbuf
    have ht := (agentStep_tx_of_length hpolls o c hdma hfreed hown hn fun hok => absurd hok hnot).trans
      (txDescriptor_badBuffer (s := tdmdCleared s) o c s.dev.txCurDev hwhole hn hbuf)
    rw [show t = _ from ht]
    exact txReturn_returns (s := { tdmdCleared s with dev := setMerr (tdmdCleared s).dev }) hown _ _

end Sys2Proof.Machine
end

section
/-!
PROOF. Proofs of the statements of 45_dma_engine.md about the address filter, the receiver and the DMA window (O32, O33,
O34, O35), and of the statement of 42_descriptor_ring.md that RECEIVE answers the frame the device has stored (O53).
-/

namespace Sys2Proof.Machine

/-! ### The address filter (R371) -/

/-- The group bit is the low bit of the first octet (R371). -/
theorem groupBit_iff (l : List Byte) (matched : Bool) :
    (((l.take 6).headD 0).getLsbD 0 && matched) = true ↔
      ∃ b rest, l = b :: rest ∧ b.getLsbD 0 = true ∧ matched = true := by
  cases l with
  | nil => simp
  | cons b rest =>
    rw [Bool.and_eq_true]
    exact ⟨fun h => ⟨b, rest, rfl, h⟩, fun ⟨_, _, e, h⟩ => by obtain ⟨rfl, rfl⟩ := List.cons.inj e; exact h⟩

/-- Settles O32, along the tests of `acceptFrame`: PROM, the length, then the destination. -/
theorem addressFilter : Obligations.AddressFilter := by
  intro d f
  unfold acceptFrame
  dsimp only
  split_ifs with hprom hshort
  · exact iff_of_true rfl (.inl hprom)
  · refine iff_of_false nofun ?_
    rintro (hp | ⟨hlong, -⟩)
    · exact hprom hp
    · omega
  · rw [Bool.or_eq_true, Bool.or_eq_true, beq_iff_eq, beq_iff_eq, groupBit_iff, or_assoc]
    exact ⟨fun h => .inr ⟨Nat.le_of_not_lt hshort, h⟩, fun h => (h.resolve_left hprom).2⟩

/-! ### A frame that is accepted (R370) -/

/-- The frame `f` is the next of a live run, its device receives and accepts it, and the RX descriptor at its cursor is
at `d`. -/
structure State.Receives (s : State) (f : Frame) (fs : List Frame) (d : Nat) : Prop where
  live : s.refusal = none
  arrives : s.env.rxIn = f :: fs
  running : s.dev.devState = .running
  rxon : s.dev.csr0.rxon = true
  accepts : acceptFrame s.dev f = true
  cursor : s.dev.rdra.toNat + 16 * s.dev.rxCurDev = d

/-- The state once the device has taken the next frame, `fs` being left. -/
def frameTaken (fs : List Frame) (s : State) : State := { s with env := { s.env with rxIn := fs } }

theorem agentStep_rx {s : State} {f : Frame} {fs : List Frame} (hlive : s.refusal = none)
    (harrives : s.env.rxIn = f :: fs) (hbarred : barred .rx s = false) :
    agentStep .rx s = rxFrame f (frameTaken fs s) := by
  rw [agentStep_live hlive hbarred, takeStep, devRx, harrives]
  rfl

/-- A frame is discarded when the device is not receiving, or does not accept it. -/
theorem agentStep_rx_discards {s : State} {f : Frame} {fs : List Frame} (hlive : s.refusal = none)
    (harrives : s.env.rxIn = f :: fs)
    (hnot : ¬ (s.dev.devState = .running ∧ s.dev.csr0.rxon = true ∧ acceptFrame s.dev f = true)) :
    agentStep .rx s = frameTaken fs s := by
  have hbarred : barred .rx s = false := barred_rx_false harrives rfl
    (fun hrun hrxon hacc => absurd ⟨hrun, hrxon, hacc⟩ hnot) (fun hrun hrxon hacc => absurd ⟨hrun, hrxon, hacc⟩ hnot)
  rw [agentStep_rx hlive harrives hbarred, rxFrame]
  dsimp only
  split_ifs with hrun hacc
  · rfl
  · rfl
  all_goals
    refine absurd ?_ hnot
    simp only [frameTaken, Bool.not_eq_true', Bool.not_eq_false, Bool.and_eq_true, beq_iff_eq] at hrun hacc
    exact ⟨hrun.1, hrun.2, hacc⟩

section Received

variable {s : State} {f : Frame} {fs : List Frame} {d : Nat} (h : s.Receives f fs d)

include h

/-- A descriptor outside the window turns the receiver off (R360, R374). -/
theorem agentStep_rx_outside (hdma : dmaOk s.cfg d 16 = false) :
    agentStep .rx s = { frameTaken fs s with
      dev := { s.dev with csr0 := { s.dev.csr0 with merr := true, rxon := false } } } := by
  obtain ⟨hlive, harrives, hrun, hrxon, hacc, rfl⟩ := h
  have hnot := Bool.eq_false_iff.mp hdma
  have hbarred : barred .rx s = false := barred_rx_false harrives rfl
    (fun _ _ _ hok => absurd hok hnot) (fun _ _ _ hok => absurd hok hnot)
  rw [agentStep_rx hlive harrives hbarred]
  simp [rxFrame, frameTaken, hrun, hrxon, hacc, hdma]

/-- A software-owned descriptor is a miss (R375). -/
theorem agentStep_rx_missed (hdma : dmaOk s.cfg d 16 = true) (hfreed : meetsFreed s (d, 16) = false)
    (ho : deviceOwns s.mem d = false) : agentStep .rx s = { frameTaken fs s with dev := missedFrame s.dev } := by
  obtain ⟨hlive, harrives, hrun, hrxon, hacc, rfl⟩ := h
  have hnot := Bool.eq_false_iff.mp ho
  have hbarred : barred .rx s = false := barred_rx_false harrives rfl
    (fun _ _ _ _ => hfreed) (fun _ _ _ _ how => absurd how hnot)
  rw [agentStep_rx hlive harrives hbarred]
  simp [rxFrame, frameTaken, hrun, hrxon, hacc, hdma, ho]

/-- A device-owned descriptor is filled, where the buffer bytes written are apart from a freed region. -/
theorem agentStep_rx_owned (hdma : dmaOk s.cfg d 16 = true) (hfreed : meetsFreed s (d, 16) = false)
    (ho : deviceOwns s.mem d = true)
    (hbuf : ∀ n, n = min f.bytes.length ((deviceLength (read16 s.mem (d + 2))).getD 0) → n > 0 →
      dmaOk s.cfg (read32 s.mem (d + 4)).toNat n = true → meetsFreed s ((read32 s.mem (d + 4)).toNat, n) = false) :
    agentStep .rx s = rxFill f s.dev.rxCurDev d (frameTaken fs s) := by
  obtain ⟨hlive, harrives, hrun, hrxon, hacc, rfl⟩ := h
  have hbarred : barred .rx s = false := barred_rx_false harrives rfl
    (fun _ _ _ _ => hfreed) (fun _ _ _ _ _ => hbuf)
  rw [agentStep_rx hlive harrives hbarred]
  simp [rxFrame, frameTaken, hrun, hrxon, hacc, hdma, ho]

end Received

/-! ### The bytes of a filled descriptor (R372, R373) -/

/-- Memory once the device has stored the bytes `bs` for the descriptor at `d`, whose buffer is at `ba`: the buffer, the
byte count, then the status word. -/
def putFrame (d ba : Nat) (bs : List Byte) (st : Half) (m : Memory) : Memory :=
  write16 (write16 (writeBytes m ba bs) (d + 2) (neg16 bs.length)) d st

section PutFrame

variable {d ba : Nat} {bs : List Byte} (st : Half) (m : Memory)

theorem putFrame_status : read16 (putFrame d ba bs st m) d = st := read16_write16 ..

theorem putFrame_byteCount : read16 (putFrame d ba bs st m) (d + 2) = neg16 bs.length := by
  rw [putFrame, read16_write16_outside _ _ _ _ (by omega), read16_write16]

theorem putFrame_bytes (h : ba + bs.length ≤ d ∨ d + 4 ≤ ba) : readBytes (putFrame d ba bs st m) ba bs.length = bs :=
  calc readBytes (putFrame d ba bs st m) ba bs.length
      = readBytes (writeBytes m ba bs) ba bs.length := readBytes_congr _ _ fun y h1 h2 => by
        rw [putFrame, readByte_write16_outside _ _ _ _ (by omega), readByte_write16_outside _ _ _ _ (by omega)]
    _ = bs := readBytes_writeBytes_same ..

theorem putFrame_outside {x : Nat} (hb : x < ba ∨ ba + bs.length ≤ x) (hd : x < d ∨ d + 4 ≤ x) :
    readByte (putFrame d ba bs st m) x = readByte m x := by
  rw [putFrame, readByte_write16_outside _ _ _ _ (by omega), readByte_write16_outside _ _ _ _ (by omega),
    readByte_writeBytes_outside _ _ _ _ hb]

end PutFrame

/-- The bits of the status word that the device writes (R373). -/
theorem rxStatus_bits (overlong fram oflo crc : Bool) :
    (rxStatus overlong fram oflo crc).getLsbD 15 = false ∧
    (rxStatus overlong fram oflo crc).getLsbD 14 = (overlong || fram || oflo || crc) ∧
    (rxStatus overlong fram oflo crc).getLsbD 13 = fram ∧ (rxStatus overlong fram oflo crc).getLsbD 12 = oflo ∧
    (rxStatus overlong fram oflo crc).getLsbD 11 = crc ∧ (rxStatus overlong fram oflo crc).getLsbD 10 = overlong ∧
    (rxStatus overlong fram oflo crc).extractLsb' 0 10 = 0x300 := by
  revert overlong fram oflo crc
  decide

/-! ### A device-owned descriptor (R370, R374) -/

/-- A descriptor the device owns is returned: its byte count, then its status word. -/
theorem rxComplete_owned {s : State} {d : Nat} (ho : deviceOwns s.mem d = true) (i n : Nat) (st : Half) :
    rxComplete i d n st s = { s with
      dev := { s.dev with csr0 := { s.dev.csr0 with rint := true }, rxCurDev := (i + 1) % s.dev.rlen }
      mem := write16 (write16 s.mem (d + 2) (neg16 n)) d st } := by
  have howned : deviceOwns (write16 s.mem (d + 2) (neg16 n)) d = true := by
    rw [write16, deviceOwns_writeBytes_outside _ _ _ _ (.inl le_rfl), ho]
  rw [rxComplete]
  dsimp only
  rw [claimDesc_allowed (s := { s with mem := write16 s.mem (d + 2) (neg16 n) }) howned]
  rfl

section Fill

variable {s : State} {f : Frame} {d ba cap n : Nat} (i : Nat)
  (hcap : (deviceLength (read16 s.mem (d + 2))).getD 0 = cap) (hn : min f.bytes.length cap = n)
  (hba : (read32 s.mem (d + 4)).toNat = ba)

include hcap hn hba

theorem rxFill_badBuffer (hpos : 0 < n) (hbuf : dmaOk s.cfg ba n = false) :
    rxFill f i d s = { s with dev := setMerr s.dev } := by
  simp only [rxFill, hcap, hn, hba, gt_iff_lt, hpos, hbuf, decide_true, Bool.not_false, Bool.true_and, if_true]

/-- The frame is stored, as much of it as the capacity holds, and the descriptor returned. The buffer does not overlap
the status word (log entry 25), so the device still owns the descriptor when it claims it. -/
theorem rxFill_stores (ho : deviceOwns s.mem d = true) (hbuf : n = 0 ∨ dmaOk s.cfg ba n = true)
    (hapart : ba + n ≤ d ∨ d + 4 ≤ ba) :
    rxFill f i d s = { s with
      dev := { s.dev with csr0 := { s.dev.csr0 with rint := true }, rxCurDev := (i + 1) % s.dev.rlen }
      mem := putFrame d ba (f.bytes.take n)
        (rxStatus (decide (f.bytes.length > cap)) f.framErr f.ofloErr f.crcErr) s.mem } := by
  have hlen : (f.bytes.take n).length = n := List.length_take_of_le (by omega)
  have hreadable : (decide (n > 0) && !dmaOk s.cfg ba n) = false := by
    rcases hbuf with h | h <;> simp [h]
  have howned : deviceOwns (writeBytes s.mem ba (f.bytes.take n)) d = true := by
    rw [deviceOwns_writeBytes_outside _ _ _ _ (by omega), ho]
  simp only [rxFill, hcap, hn, hba, hreadable, Bool.false_eq_true, if_false]
  rw [rxComplete_owned (by exact howned), putFrame, hlen]

end Fill

/-- What `dev.rx` makes of a frame that is stored in the device-owned descriptor at `d` (R370, R372, R373). -/
theorem agentStep_rx_stores {s : State} {f : Frame} {fs : List Frame} {d ba cap n : Nat} (h : s.Receives f fs d)
    (hdma : dmaOk s.cfg d 16 = true) (hfreed : meetsFreed s (d, 16) = false) (ho : deviceOwns s.mem d = true)
    (hcap : (deviceLength (read16 s.mem (d + 2))).getD 0 = cap) (hn : min f.bytes.length cap = n)
    (hba : (read32 s.mem (d + 4)).toNat = ba) (hbuf : n = 0 ∨ dmaOk s.cfg ba n = true ∧ meetsFreed s (ba, n) = false)
    (hapart : ba + n ≤ d ∨ d + 4 ≤ ba) :
    agentStep .rx s = { frameTaken fs s with
      dev := { s.dev with
        csr0 := { s.dev.csr0 with rint := true }, rxCurDev := (s.dev.rxCurDev + 1) % s.dev.rlen }
      mem := putFrame d ba (f.bytes.take n)
        (rxStatus (decide (f.bytes.length > cap)) f.framErr f.ofloErr f.crcErr) s.mem } := by
  have hreach : ∀ k, k = min f.bytes.length ((deviceLength (read16 s.mem (d + 2))).getD 0) → k > 0 →
      dmaOk s.cfg (read32 s.mem (d + 4)).toNat k = true → meetsFreed s ((read32 s.mem (d + 4)).toNat, k) = false := by
    rw [hcap, hn, hba]
    rintro k rfl hpos _
    exact (hbuf.resolve_left (Nat.ne_of_gt hpos)).2
  rw [agentStep_rx_owned h hdma hfreed ho hreach,
    rxFill_stores (s := frameTaken fs s) s.dev.rxCurDev hcap hn hba ho (hbuf.imp_right And.left) hapart]
  rfl

/-- The capacity of a descriptor: its length where a device accepts it, and 0 otherwise (R88, R370). -/
theorem deviceLength_capacity {b : Half} {cap : Nat}
    (h : (1 ≤ dec16 b ∧ dec16 b ≤ 4095 ∧ dec16 b = cap) ∨ ((dec16 b < 1 ∨ 4095 < dec16 b) ∧ cap = 0)) :
    (deviceLength b).getD 0 = cap := by
  rcases h with ⟨hmin, hmax, hcap⟩ | ⟨hbad, rfl⟩
  · rw [deviceLength_some ⟨hmin, hmax⟩, hcap, Option.getD_some, Int.toNat_natCast]
  · rw [deviceLength_none hbad, Option.getD_none]

/-- Settles O33: the frame is stored as `agentStep_rx_stores` says, and what memory then holds is `putFrame`'s. -/
theorem rxFillsTheDescriptor : Obligations.RxFillsTheDescriptor := by
  intro s f fs cap hlive harrives hrun hrxon hacc d c ba n hdma hfreed hown hcap hbuf hapart t
  have ht := agentStep_rx_stores ⟨hlive, harrives, hrun, hrxon, hacc, rfl⟩ hdma hfreed hown (deviceLength_capacity hcap)
    rfl rfl hbuf hapart
  have hlen : (f.bytes.take n).length = n := List.length_take_of_le (Nat.min_le_left _ _)
  have hcount := putFrame_byteCount (d := d) (ba := ba) (bs := f.bytes.take n)
  have hbytes := putFrame_bytes (d := d) (ba := ba) (bs := f.bytes.take n)
  have houtside := @putFrame_outside d ba (f.bytes.take n)
  rw [hlen] at hcount hbytes houtside
  intro st
  have hst : st = rxStatus (decide (f.bytes.length > cap)) f.framErr f.ofloErr f.crcErr := by
    show read16 t.mem d = _
    rw [show t = _ from ht]
    exact putFrame_status ..
  obtain ⟨hown', herr, hfram, hoflo, hcrc, hbuff, hlow⟩ :=
    rxStatus_bits (decide (f.bytes.length > cap)) f.framErr f.ofloErr f.crcErr
  rw [hst, show t = _ from ht]
  exact ⟨rfl, hbytes _ _ hapart, hcount _ _, hown', herr, hfram, hoflo, hcrc, hbuff, hlow,
    fun x hb hd => houtside _ _ hb hd⟩

/-- Settles O34: each way to drop a frame is one branch of `dev.rx`. -/
theorem rxDropsTheFrame : Obligations.RxDropsTheFrame := by
  intro s f fs hlive harrives d c ba left t
  refine ⟨fun hidle => ?idle, fun _ _ hacc => ?filtered, fun hrun hrxon hacc => ?_⟩
  case idle =>
    refine agentStep_rx_discards hlive harrives fun ⟨hrun, hrxon, _⟩ => ?_
    simp [hrun, hrxon] at hidle
  case filtered =>
    exact agentStep_rx_discards hlive harrives fun ⟨_, _, h⟩ => Bool.eq_false_iff.mp hacc h
  have h : s.Receives f fs d := ⟨hlive, harrives, hrun, hrxon, hacc, rfl⟩
  refine ⟨agentStep_rx_outside h, fun hdma hfreed ho => ?missed, fun hdma hfreed ho hmin hmax hne hbuf => ?badBuffer⟩
  case missed =>
    have hwrap : (s.dev.csr112 + 1 == 0) = (s.dev.csr112 == 0xFFFF) := by
      have hlast : s.dev.csr112 + 1 = 0 ↔ s.dev.csr112 = 0xFFFF := add_eq_zero_iff_eq_neg
      rw [Bool.eq_iff_iff, beq_iff_eq, beq_iff_eq, hlast]
    refine (agentStep_rx_missed h hdma hfreed ho).trans ?_
    rw [missedFrame, hwrap]
    rfl
  case badBuffer =>
    have hcap : (deviceLength (read16 s.mem (d + 2))).getD 0 = c.toNat := by
      rw [deviceLength_some ⟨hmin, hmax⟩, Option.getD_some]
    have hpos : 0 < min f.bytes.length c.toNat := by
      have := List.length_pos_iff.mpr hne
      omega
    have hreach : ∀ n, n = min f.bytes.length ((deviceLength (read16 s.mem (d + 2))).getD 0) → n > 0 →
        dmaOk s.cfg ba n = true → meetsFreed s (ba, n) = false := by
      rw [hcap]
      rintro n rfl _ hok
      exact absurd hok (Bool.eq_false_iff.mp hbuf)
    exact (agentStep_rx_owned h hdma hfreed ho hreach).trans
      (rxFill_badBuffer (s := frameTaken fs s) s.dev.rxCurDev hcap rfl rfl hpos hbuf)

/-! ### The DMA window (R360) -/

theorem bufferReach_dmaOk {p : Params} {ba n : Nat} {r : Nat × Nat} (h : r ∈ bufferReach p ba n) :
    dmaOk p r.1 r.2 = true := by
  unfold bufferReach at h
  split_ifs at h with hc
  · obtain rfl := List.mem_singleton.mp h
    exact (Bool.and_eq_true_iff.mp hc).2
  · cases h

/-- Whatever a step reaches has passed its check. -/
theorem devReach_dmaOk {a : AgentStep} {s : State} {r : Nat × Nat} (h : r ∈ devReach a s) :
    dmaOk s.cfg r.1 r.2 = true := by
  cases a with
  | init =>
    dsimp only [devReach, initReach] at h
    split_ifs at h with hc
    · obtain rfl := List.mem_singleton.mp h
      exact hc.2.2
    · cases h
  | tx o c =>
    dsimp only [devReach, txReach] at h
    split_ifs at h with hc ho
    · rcases List.mem_cons.mp h with rfl | h
      · exact hc.2.2
      · split at h
        · exact bufferReach_dmaOk h
        · cases h
    · obtain rfl := List.mem_singleton.mp h
      exact hc.2.2
    · cases h
  | rx =>
    dsimp only [devReach, rxReach] at h
    split at h
    · cases h
    · split_ifs at h with hc ho
      · rcases List.mem_cons.mp h with rfl | h
        · exact hc.2.2.2
        · exact bufferReach_dmaOk h
      · obtain rfl := List.mem_singleton.mp h
        exact hc.2.2.2
      · cases h
  | frame f => cases h
  | platform p => cases h

/-- A byte outside the window, or one that does not exist, is outside every range the device may access. -/
theorem outside_of_dmaOk {p : Params} {a n x : Nat} (h : dmaOk p a n = true)
    (hx : windowHas p.dmaWindow x = false ∨ memoryTop ≤ x) : x < a ∨ a + n ≤ x := by
  by_contra hin
  have htop := dmaOk_top h
  have hhas : windowHas p.dmaWindow x = true :=
    windowCovers_iff.mp (Bool.and_eq_true_iff.mp h).2 x (by omega) (by omega)
  rcases hx with hx | hx
  · exact absurd hhas (Bool.eq_false_iff.mp hx)
  · omega

/-- Settles O35: a step writes only what it reaches (`takeStep_outside`), and that is inside the window. -/
theorem deviceStaysInTheWindow : Obligations.DeviceStaysInTheWindow := by
  intro s a x hx
  rcases agentStep_cases a s with e | ⟨_, _, e⟩ <;> rw [e]
  exact takeStep_outside fun r hr => outside_of_dmaOk (devReach_dmaOk hr) hx

/-! ### A stored frame and RECEIVE (R256, R370) -/

/-- The device may access RX descriptor `i` of a region the platform may return. -/
theorem dmaOk_rxDesc {p : Params} {base i : Nat} (h : regionOk p base = true) (hi : i < rxLen p) :
    dmaOk p (rxDescAddr base i) 16 = true := by
  have h1 := rxDesc_start base i
  have h2 := rxDesc_le_rxBuf hi base i
  have h3 := rxBuf_end hi base
  have h4 := txBuf_le_region p
  exact dmaOk_mono (dmaOk_of_regionOk h) (by omega) (by omega)

/-- The device may access RX buffer `i` of such a region. -/
theorem dmaOk_rxBuf {p : Params} {base i n : Nat} (h : regionOk p base = true) (hi : i < rxLen p)
    (hn : n ≤ p.bufferSize) : dmaOk p (rxBufAddr p base i) n = true := by
  have h1 := rxBuf_start p base i
  have h2 := rxBuf_end hi base
  have h3 := txBuf_le_region p
  exact dmaOk_mono (dmaOk_of_regionOk h) (by omega) (by omega)

/-- A frame without error stored in slot `i` is one that RECEIVE delivers. -/
theorem putFrame_rxHolds {p : Params} {base i : Nat} {bs : List Byte} (m : Memory) (hi : i < rxLen p)
    (hne : bs ≠ []) (hfits : bs.length ≤ p.bufferSize) :
    RxHolds p base i (putFrame (rxDescAddr base i) (rxBufAddr p base i) bs 0x0300 m) bs where
  status := putFrame_status ..
  byteCount := putFrame_byteCount ..
  nonempty := List.length_pos_iff.mpr hne
  fits := hfits
  bytes := putFrame_bytes _ _ (.inr (by have := rxDesc_le_rxBuf hi base i; omega))

section RxArmed

variable {p : Params} {base i : Nat} {m : Memory}

theorem RxArmed.owned (h : RxArmed p base i m) : deviceOwns m (rxDescAddr base i) = true := by
  rw [deviceOwns, h.status]
  decide

/-- The device reads the controller's buffer size as the capacity of an armed slot (R88). -/
theorem RxArmed.capacity (h : RxArmed p base i m) (hpos : 1 ≤ p.bufferSize) (hmax : p.bufferSize ≤ 4095) :
    (deviceLength (read16 m (rxDescAddr base i + 2))).getD 0 = p.bufferSize := by
  rw [h.byteCount, deviceLength_neg16 hpos hmax, Option.getD_some]

/-- The buffer's address, where the buffer lies below the top of memory, is the one the descriptor holds. -/
theorem RxArmed.bufferAddress_toNat (h : RxArmed p base i m) (htop : rxBufAddr p base i < memoryTop) :
    (read32 m (rxDescAddr base i + 4)).toNat = rxBufAddr p base i := by
  rw [h.bufferAddress, BitVec.toNat_ofNat]
  exact Nat.mod_eq_of_lt htop

end RxArmed

/-- The step of the device that stores a frame without error, of a length the slot's buffer holds, in an armed slot. -/
theorem agentStep_rx_armed {s : State} {base i : Nat} {f : Frame} {fs : List Frame}
    (h : s.Receives f fs (rxDescAddr base i)) (harmed : RxArmed s.cfg base i s.mem) (hwf : s.cfg.wf = true)
    (hregion : regionOk s.cfg base = true) (hnone : s.ctl.freed = none) (hi : i < rxLen s.cfg) (hne : f.bytes ≠ [])
    (hfits : f.bytes.length ≤ s.cfg.bufferSize) (hfram : f.framErr = false) (hoflo : f.ofloErr = false)
    (hcrc : f.crcErr = false) :
    agentStep .rx s = { frameTaken fs s with
      dev := { s.dev with
        csr0 := { s.dev.csr0 with rint := true }, rxCurDev := (s.dev.rxCurDev + 1) % s.dev.rlen }
      mem := putFrame (rxDescAddr base i) (rxBufAddr s.cfg base i) f.bytes 0x0300 s.mem } := by
  have hpos := List.length_pos_iff.mpr hne
  have hbuf := dmaOk_rxBuf hregion hi hfits
  have htop := dmaOk_top hbuf
  have hapart := rxDesc_le_rxBuf hi base i
  have hunfreed (r : Nat × Nat) : meetsFreed s r = false := by rw [meetsFreed, hnone]
  have hstatus : rxStatus (decide (f.bytes.length > s.cfg.bufferSize)) f.framErr f.ofloErr f.crcErr = 0x0300 := by
    rw [decide_eq_false (Nat.not_lt.mpr hfits), hfram, hoflo, hcrc]
    decide
  have hstored := agentStep_rx_stores h (dmaOk_rxDesc hregion hi) (hunfreed _) harmed.owned
    (harmed.capacity (by omega) (Params.bufferSize_le hwf)) (Nat.min_eq_left hfits)
    (harmed.bufferAddress_toNat (by omega)) (.inr ⟨hbuf, hunfreed _⟩) (.inr (by omega))
  rwa [List.take_length, hstatus] at hstored

/-- Settles O53: the device stores the frame in the slot (`agentStep_rx_armed`), and RECEIVE delivers what a slot holds
(O50). -/
theorem receiveRoundTrip : Obligations.ReceiveRoundTrip := by
  intro s base f fs hlive hh hwf hregion hnone hl hrun hrxon hrdra hcur harmed harrives hacc hfram hoflo hcrc hne hfits
  have h : s.Receives f fs (rxDescAddr base s.ctl.rxCur) :=
    ⟨hlive, harrives, hrun, hrxon, hacc, by rw [hrdra, hcur]; rfl⟩
  have hstored := agentStep_rx_armed h harmed hwf hregion hnone hh.rxCur hne hfits hfram hoflo hcrc
  have hrefusal : (agentStep .rx s).refusal = none := by rw [hstored]; exact hlive
  have hmem : RxHolds s.cfg base s.ctl.rxCur (agentStep .rx s).mem f.bytes := by
    rw [hstored]
    exact putFrame_rxHolds s.mem hh.rxCur hne hfits
  have hrest : (agentStep .rx s).env.rxIn = fs := by rw [hstored]; rfl
  have hfaults : (agentStep .rx s).faults = s.faults := by rw [hstored]; rfl
  have hcfg := agentStep_cfg .rx s
  have hctl := agentStep_ctl .rx s
  have hholds : (agentStep .rx s).Holds base := by
    rw [hstored]
    exact ⟨hh.region, hh.inside, hh.rxCur, hh.txCur⟩
  have hreceive := receiveDeliversTheFrame (agentStep .rx s) base f.bytes hrefusal hholds
  simp only [hcfg, hctl] at hreceive
  obtain ⟨t, hexec, ht, hrearmed, -⟩ := hreceive hwf hl hmem
  exact ⟨t, hexec, by rw [ht], by rw [ht]; exact hrest, hrearmed, by rw [ht]; exact hfaults⟩

end Sys2Proof.Machine
end

section
/-!
PROOF. Proof of the statement of 60_exceptions.md about a refused run (O11; R417): the schedule, every meaning of an
instruction and every agent ask for a live run before anything else.
-/

namespace Sys2Proof.Machine

section Refused

variable {s : State} {r : RefuseReason}

/-- The meaning of a port request, a row read or written, and that of an operation each begin with `whenLive`. -/
theorem exec_refused (h : s.refusal = some r) (i : Instr) : exec i s = .refused (.runRefused r) := by
  have hread (m : RowMode) (n : Nat) (v : Word) (t : State) : readMeaning m n v t s = .refused (.runRefused r) :=
    whenLive_refused h _
  have hwrite (m : RowMode) (t : State) : writeMeaning m t s = .refused (.runRefused r) := whenLive_refused h _
  cases i <;> dsimp only [exec]
  case attach | initializeOp | isr | transmit | receive | disable | release => exact whenLive_refused h _
  case dwioEnter | rdpWw | rapWw | bdpWw | rdpWd | rapWd | bdpWd => exact hwrite _ _
  all_goals exact hread _ _ _ _

theorem step_refused (h : s.refusal = some r) : step s = .refused (.runRefused r) := whenLive_refused h _

theorem agentStep_refused (h : s.refusal = some r) (a : AgentStep) : agentStep a s = s := by
  rcases agentStep_cases a s with e | ⟨hlive, _, _⟩
  · exact e
  · rw [h] at hlive; cases hlive

end Refused

/-- Settles O11: one lemma each for the schedule, the instructions and the agents. -/
theorem refusedRunStops : Obligations.RefusedRunStops := fun _ _ h =>
  ⟨step_refused h, exec_refused h, agentStep_refused h⟩

end Sys2Proof.Machine
end

section
/-!
PROOF. Proofs of the statements of 70_reset_and_hazards.md about the H_RESET state (O57, O58; R450): it has the invariant
of the machine, and the registers, the controller and the environment have the values the rule states.
-/

namespace Sys2Proof.Machine

/-! ### The invariant, agent by agent

The device is STOPPED with every flag clear, the environment's lists are empty, and the controller owns nothing: what is
left are the ranges of the lengths and the cursors, where the model's own values count (log entries 1 and 2). -/

theorem hReset_dev_inv : Dev.hReset.Inv where
  rlen := by decide
  tlen := by decide
  rxCurDev := by decide
  txCurDev := by decide
  rdra := rfl
  tdra := rfl
  pendingStart := nofun
  init := by decide
  strt := by decide
  rxon := nofun
  txon := nofun
  tdmd := nofun
  style := by decide
  quiet := fun _ => Csr0.clear_quiet
  atStop := nofun

theorem hReset_env_inv (p : Params) (g : Platform) : (State.hReset p g).env.Inv p where
  arriving := nofun
  sent := nofun
  delivered := nofun

/-- The cursors start at 0, and no ring is empty whatever the parameters (`rxLen_pos`, `txLen_pos`). -/
theorem initial_ctl_inv (p : Params) (refused : Bool) : Ctl.initial.Inv p refused where
  rxCur := rxLen_pos p
  txCur := txLen_pos p
  region := nofun
  owned := nofun
  freed := nofun
  unowned := fun _ _ => ⟨rfl, rfl, rfl⟩

theorem hReset_inv (p : Params) (g : Platform) : (State.hReset p g).Inv where
  memory := hReset_mem_wf p g
  addresses := nofun
  dev := hReset_dev_inv
  env := hReset_env_inv p g
  ctl := initial_ctl_inv p _

/-- Settles O57: the reset state is one H_RESET state, and each of them has the invariant (`hReset_inv`). -/
theorem resetHasTheInvariant : Obligations.ResetHasTheInvariant := ⟨hReset_inv, hReset_inv _ _⟩

/-! ### The values -/

/-- A STOPPED device with no flag set reads CSR0 as STOP alone (R24). -/
theorem csrRead_zero_hReset : csrRead Dev.hReset 0 = 0x0004 :=
  (csrRead_zero Dev.hReset).trans (csr0Word_eq_stop rfl rfl rfl)

/-- CSR4, CSR15, CSR112 and BCR20 read 0 after H_RESET (R450). -/
theorem registers_hReset :
    csrRead Dev.hReset 4 = 0 ∧ csrRead Dev.hReset 15 = 0 ∧ csrRead Dev.hReset 112 = 0 ∧ bcrRead Dev.hReset 20 = 0 := by
  decide

/-- IENA is clear, so the interrupt line is low (R38). -/
theorem irq_hReset : irq Dev.hReset = false := Bool.and_false _

/-- Settles O58: the reads and the interrupt line by the lemmas above; the other conjuncts are fields of `State.hReset`. -/
theorem resetValues : Obligations.ResetValues := by
  intro p g
  obtain ⟨hcsr4, hcsr15, hcsr112, hbcr20⟩ := registers_hReset
  exact ⟨rfl, rfl, csrRead_zero_hReset, hcsr4, hcsr15, hcsr112, hbcr20, rfl, rfl, irq_hReset, rfl, rfl, rfl, rfl, rfl,
    rfl, rfl, rfl, rfl, rfl, rfl⟩

end Sys2Proof.Machine
end

section
/-!
PROOF. Proof of the statement of 40_register_access.md section 5 about both access modes (O19; R133, R186): what a
RegisterAccess call returns and does is said once for the two modes, and a sequence of calls is followed in both at once.
-/

namespace Sys2Proof.Machine

/-! ### A RegisterAccess call (R181 to R185) -/

/-- The state after a RegisterAccess call, the result apart. -/
def called (c : Pseudo) (s : State) : State :=
  match c with
  | .csrr n => writeRap (registerData n) s
  | .csrw n v => writeRdp (registerData v) (writeRap (registerData n) s)
  | .bcrr n => writeRap (registerData n) s
  | .bcrw n v => writeBdp (registerData v) (writeRap (registerData n) s)
  | .rareset => readReset s

/-- The value a RegisterAccess call returns. -/
def calledValue (c : Pseudo) (s : State) : Option Word :=
  match c with
  | .csrr n => some (readRdp (writeRap (registerData n) s))
  | .csrw _ _ => none
  | .bcrr n => some (readBdp (writeRap (registerData n) s))
  | .bcrw _ _ => none
  | .rareset => none

@[simp] theorem called_dwio (c : Pseudo) (s : State) : (called c s).dev.dwio = s.dev.dwio := by
  cases c <;> simp [called]

@[simp] theorem called_refusal (c : Pseudo) (s : State) : (called c s).refusal = s.refusal := by
  cases c <;> rfl

/-! ### The port requests of a call (R133) -/

/-- The write of RAP that a call begins with. -/
def rapRow (m : AccessMode) (n : Word) : Instr :=
  match m with
  | .word => .rapWw (registerData n)
  | .dword => .rapWd n

section Requests

variable {s : State} (hr : s.refusal = none)

include hr

/-- The request of a port row, in the row's mode, performs the row. -/
theorem runRequests_port {i : Instr} {w : Byte} {data : List Byte} (hi : encode i = ⟨.pio, w :: data⟩)
    (hwf : i.wf = true) (hm : modeAdmits (rowMode i) s.dev.dwio = true) (rs : List Request) :
    runRequests (encode i :: rs) s =
      runRequests rs { (portRow i s).2 with result := portAnswer w (portRow i s).1 } := by
  rw [runRequests, runRequest_decoded (decodeEncode i _ hwf hm), exec_port_in_mode hi hm hr]

/-- A write of RAP and a row of the same mode performed after it. -/
theorem runRequests_rapRow {m : AccessMode} (hm : s.dev.dwio = (m == .dword)) {i : Instr} {w : Byte} {data : List Byte}
    (hi : encode i = ⟨.pio, w :: data⟩) (hwf : i.wf = true) (hrow : modeAdmits (rowMode i) (m == .dword) = true)
    (n : Word) :
    let t := { writeRap (registerData n) s with result := .written }
    runRequests [encode (rapRow m n), encode i] s =
      some { (portRow i t).2 with result := portAnswer w (portRow i t).1 } := by
  intro t
  have hlast := runRequests_port (s := t) hr hi hwf (by rw [← hm] at hrow; exact hrow) []
  cases m with
  | word => exact (runRequests_port hr (i := .rapWw _) rfl rfl (modeAdmits_wio hm) _).trans hlast
  | dword => exact (runRequests_port hr (i := .rapWd _) rfl rfl (modeAdmits_dwio hm) _).trans hlast

/-- In either access mode, with the decoder in it, the requests of a call do what `called` says and answer its value. What
else the result holds, the width of a read and the draw of `reset()`, is not part of the call (R185). -/
theorem runRequests_expandPseudo {m : AccessMode} (hm : s.dev.dwio = (m == .dword)) (c : Pseudo) :
    ∃ r, runRequests (expandPseudo m c) s = some { called c s with result := r } ∧ callValue c r = calledValue c s := by
  cases m with
  | word =>
    cases c with
    | csrr n => exact ⟨_, runRequests_rapRow hr hm (i := .rdpRw) rfl rfl rfl n, rfl⟩
    | csrw n v => exact ⟨_, runRequests_rapRow hr hm (i := .rdpWw _) rfl rfl rfl n, rfl⟩
    | bcrr n => exact ⟨_, runRequests_rapRow hr hm (i := .bdpRw) rfl rfl rfl n, rfl⟩
    | bcrw n v => exact ⟨_, runRequests_rapRow hr hm (i := .bdpWw _) rfl rfl rfl n, rfl⟩
    | rareset => exact ⟨_, runRequests_port hr (i := .resetRw) rfl rfl (modeAdmits_wio hm) [], rfl⟩
  | dword =>
    cases c with
    | csrr n => exact ⟨_, runRequests_rapRow hr hm (i := .rdpRd) rfl rfl rfl n, rfl⟩
    | csrw n v =>
      rw [called, ← registerData_registerData v]
      exact ⟨_, runRequests_rapRow hr hm (i := .rdpWd _) rfl rfl rfl n, rfl⟩
    | bcrr n => exact ⟨_, runRequests_rapRow hr hm (i := .bdpRd) rfl rfl rfl n, rfl⟩
    | bcrw n v =>
      rw [called, ← registerData_registerData v]
      exact ⟨_, runRequests_rapRow hr hm (i := .bdpWd _) rfl rfl rfl n, rfl⟩
    | rareset => exact ⟨_, runRequests_port hr (i := .resetRd) rfl rfl (modeAdmits_dwio hm) [], rfl⟩

end Requests

/-! ### A register write does not look at the decoder mode -/

theorem commandInitStrt_withDwio (d : Dev) (b : Bool) (v : Half) :
    commandInitStrt { d with dwio := b } v = { commandInitStrt d v with dwio := b } := by
  obtain ⟨_, _, _, _, _, _, _, _, _, devState⟩ := d
  unfold commandInitStrt
  split_ifs with hinit hstrt
  · rfl
  · cases devState <;> rfl
  · rfl

theorem csrWrite_zero_withDwio (d : Dev) (b : Bool) (v : Half) :
    csrWrite { d with dwio := b } 0 v = { csrWrite d 0 v with dwio := b } := by
  cases hv : v.getLsbD 2 with
  | true =>
    rw [csrWrite_zero_stop _ hv, csrWrite_zero_stop _ hv]
    rfl
  | false =>
    rw [csrWrite_zero_commands _ hv, csrWrite_zero_commands _ hv, commandTdmd_eq, commandTdmd_eq]
    have hack : acknowledged { d with dwio := b } v = { acknowledged d v with dwio := b } := rfl
    rw [hack, commandInitStrt_withDwio]

theorem csrWrite_withDwio (d : Dev) (b : Bool) (n : Byte) (v : Half) :
    csrWrite { d with dwio := b } n v = { csrWrite d n v with dwio := b } := by
  by_cases hn : n = 0
  · subst hn
    exact csrWrite_zero_withDwio d b v
  · unfold csrWrite
    rw [if_neg hn, if_neg hn]
    split_ifs <;> rfl

theorem bcrWrite_withDwio (d : Dev) (b : Bool) (n : Byte) (v : Half) :
    bcrWrite { d with dwio := b } n v = { bcrWrite d n v with dwio := b } := by
  unfold bcrWrite
  split_ifs <;> rfl

/-! ### One call in both modes -/

theorem sameButMode_iff {s t : State} :
    SameButMode s t ↔ ∃ b r, t = { s with dev := { s.dev with dwio := b }, result := r } := by
  refine ⟨fun h => ⟨_, _, h⟩, ?_⟩
  rintro ⟨b, r, rfl⟩
  rfl

theorem SameButMode.withResult {s t : State} (h : SameButMode s t) (r r' : Result) :
    SameButMode { s with result := r } { t with result := r' } := by
  obtain ⟨b, _, rfl⟩ := sameButMode_iff.mp h
  rfl

/-- A call keeps two states the same, and returns the same from both. -/
theorem SameButMode.called {s t : State} (h : SameButMode s t) (c : Pseudo) :
    SameButMode (called c s) (called c t) ∧ calledValue c t = calledValue c s := by
  obtain ⟨b, r, rfl⟩ := sameButMode_iff.mp h
  cases c with
  | csrr n => exact ⟨rfl, rfl⟩
  | csrw n v =>
    have hwrite := csrWrite_withDwio { s.dev with rap := rapData (registerData n) } b (rapData (registerData n))
      (registerData v)
    exact ⟨sameButMode_iff.mpr ⟨b, r, congrArg (fun d => { s with dev := d, result := r }) hwrite⟩, rfl⟩
  | bcrr n => exact ⟨rfl, rfl⟩
  | bcrw n v =>
    have hwrite := bcrWrite_withDwio { s.dev with rap := rapData (registerData n) } b (rapData (registerData n))
      (registerData v)
    exact ⟨sameButMode_iff.mpr ⟨b, r, congrArg (fun d => { s with dev := d, result := r }) hwrite⟩, rfl⟩
  | rareset => exact ⟨rfl, rfl⟩

/-- Settles O19: the relation between the two runs is kept by each call (`SameButMode.called`), whose requests do the same
in both modes (`runRequests_expandPseudo`). -/
theorem widthIndependence : Obligations.WidthIndependence := by
  intro calls
  induction calls with
  | nil => exact fun s s' _ hw hd hsame => ⟨[], s, s', rfl, rfl, hw, hd, hsame⟩
  | cons c cs ih =>
    intro s s' hr hw hd hsame
    have hr' : s'.refusal = none := by rw [hsame]; exact hr
    obtain ⟨r, hrun, hvalue⟩ := runRequests_expandPseudo (m := .word) hr hw c
    obtain ⟨r', hrun', hvalue'⟩ := runRequests_expandPseudo (m := .dword) hr' hd c
    obtain ⟨hafter, hsameValue⟩ := hsame.called c
    obtain ⟨vs, t, t', hrest, hrest', hend⟩ := ih { called c s with result := r } { called c s' with result := r' }
      (by simpa using hr) (by simpa using hw) (by simpa using hd) (hafter.withResult r r')
    refine ⟨calledValue c s :: vs, t, t', ?_, ?_, hend⟩
    · simp only [runCalls, hrun, hrest, hvalue]
    · simp only [runCalls, hrun', hrest', hvalue', hsameValue]

end Sys2Proof.Machine
end

section
/-!
PROOF. Proof of the statement of 41_csr_file.md section 2 about CSR0 written back as it was read (O24; R216).
-/

namespace Sys2Proof.Machine

/-- A STOPPED device remembers no STRT. -/
theorem Dev.Inv.pendingStart_of_stopped {d : Dev} (h : d.Inv) (hs : d.devState = .stopped) : d.pendingStart = false := by
  by_contra hc
  have hpending := h.pendingStart (by simpa using hc)
  rw [hs] at hpending
  cases hpending

/-- `stop()` of a STOPPED device clears CSR0 and else marks its STOP value only (R210). -/
theorem devStop_stopped {d : Dev} (h : d.Inv) (hs : d.devState = .stopped) :
    devStop d = { d with csr0 := Csr0.clear, atStop := true } := by
  simp only [devStop, ← hs, ← h.pendingStart_of_stopped hs]

/-- Settles O24: the write-back of a device that is not STOPPED is `writtenBack` of itself, and what a STOPPED device shows
is STOP. -/
theorem writeBackIsSafe : Obligations.WriteBackIsSafe := by
  intro d h
  refine ⟨fun hs => ?live, fun hs => ?stopped⟩
  case live => exact (csrWrite_writeBack h hs h id).trans (writtenBack_self h hs d.rap)
  case stopped => exact (csrWrite_zero_stop d ((getLsbD_csrRead_stop d).mpr hs)).trans (devStop_stopped h hs)

end Sys2Proof.Machine
end

section
/-!
PROOF. Proof of the statement of 42_descriptor_ring.md section 5 about the bound of `drainRx` (O46; R262, R263, log entry
18): a measure that every take lowers, whatever others do at the boundary after it.
-/

namespace Sys2Proof.Machine

/-! ### Two continuations that agree where they are called -/

theorem boundary_congr {s : State} {k k' : State → Out}
    (h : (otherAgents s).refusal = none → k (otherAgents s) = k' (otherAgents s)) : boundary s k = boundary s k' := by
  unfold boundary
  dsimp only
  split
  · rfl
  · exact h ‹_›

theorem withRegion_congr {s : State} {k k' : Nat → Out} (h : ∀ r, s.ctl.region = some r → k r.base = k' r.base) :
    withRegion s k = withRegion s k' := by
  unfold withRegion
  split
  · rfl
  · rw [h _ ‹_›]

theorem receiveStep_congr {s : State} {k k' : RxTake → State → Out} (hbad : k .badState s = k' .badState s)
    (h : ∀ r, s.ctl.region = some r →
      k (takeNext r.base s).1 (takeNext r.base s).2 = k' (takeNext r.base s).1 (takeNext r.base s).2) :
    receiveStep s k = receiveStep s k' := by
  unfold receiveStep
  split_ifs
  · exact withRegion_congr h
  · exact hbad

/-! ### Slots that a drain can take (R263) -/

/-- The RX slots whose descriptors software owns. -/
def softwareOwned (p : Params) (base : Nat) (m : Memory) : Finset Nat :=
  (Finset.range (rxLen p)).filter fun i => deviceOwns m (rxDescAddr base i) = false

theorem mem_softwareOwned {p : Params} {base i : Nat} {m : Memory} :
    i ∈ softwareOwned p base m ↔ i < rxLen p ∧ deviceOwns m (rxDescAddr base i) = false := by
  simp [softwareOwned]

theorem softwareOwned_card_le (p : Params) (base : Nat) (m : Memory) : (softwareOwned p base m).card ≤ rxLen p :=
  (Finset.card_filter_le _ _).trans_eq (Finset.card_range _)

/-- A descriptor handed to the device is not software-owned any more; the others stay as they were. -/
theorem softwareOwned_putDesc (p : Params) (base i : Nat) (ba : Word) (bc : Half) (m : Memory) :
    softwareOwned p base (putDesc (rxDescAddr base i) ba bc 0x8000 m) = (softwareOwned p base m).erase i := by
  ext j
  rw [Finset.mem_erase, mem_softwareOwned, mem_softwareOwned]
  by_cases hj : j = i
  · subst hj
    have howned : deviceOwns (putDesc (rxDescAddr base j) ba bc 0x8000 m) (rxDescAddr base j) = true := by
      rw [deviceOwns, putDesc_status]
      decide
    rw [howned]
    simp
  · have hapart := rxDesc_apart hj base
    have hsame : deviceOwns (putDesc (rxDescAddr base i) ba bc 0x8000 m) (rxDescAddr base j) =
        deviceOwns m (rxDescAddr base j) := by
      rw [deviceOwns, read16_congr (putDesc_outside _ _ _ _ _ (by omega)) (putDesc_outside _ _ _ _ _ (by omega)),
        deviceOwns]
    rw [hsame]
    simp [hj]

/-! ### The takes a drain can still make -/

/-- The takes that can find a software-owned descriptor before others move again: one for each such slot, and one more for
a cursor that is still outside the ring. -/
def quietTakes (base : Nat) (s : State) : Nat :=
  (softwareOwned s.cfg base s.mem).card + if s.ctl.rxCur < rxLen s.cfg then 0 else 1

/-- The takes left in all: each move still scheduled can hand the whole ring back to software. -/
def takesLeft (base : Nat) (s : State) : Nat :=
  s.interleave.flatten.length * (rxLen s.cfg + 1) + quietTakes base s

theorem quietTakes_le (base : Nat) (s : State) : quietTakes base s ≤ rxLen s.cfg + 1 := by
  have := softwareOwned_card_le s.cfg base s.mem
  unfold quietTakes
  split_ifs <;> omega

theorem takesLeft_lt_drainBound (base : Nat) (s : State) : takesLeft base s < drainBound s := by
  have := quietTakes_le base s
  rw [takesLeft, drainBound, Nat.add_mul]
  omega

/-- A take of a software-owned descriptor lowers the takes left and leaves the cursor in the ring. -/
theorem takesLeft_takeNext {base : Nat} {s : State} (ho : deviceOwns s.mem (rxDescAddr base s.ctl.rxCur) = false) :
    takesLeft base (takeNext base s).2 < takesLeft base s ∧ (takeNext base s).2.ctl.rxCur < rxLen s.cfg := by
  have hnext : (s.ctl.rxCur + 1) % rxLen s.cfg < rxLen s.cfg := Nat.mod_lt _ (rxLen_pos _)
  rw [takeNext_owned ho]
  refine ⟨?_, hnext⟩
  simp only [takesLeft, quietTakes, softwareOwned_putDesc, if_pos hnext]
  by_cases hcur : s.ctl.rxCur < rxLen s.cfg
  · have := Finset.card_erase_lt_of_mem (mem_softwareOwned.mpr ⟨hcur, ho⟩)
    omega
  · have := Finset.card_erase_le (s := softwareOwned s.cfg base s.mem) (a := s.ctl.rxCur)
    rw [if_neg hcur]
    omega

/-- A boundary with the cursor in the ring does not raise the takes left: slots come back to software only by a move, which
the schedule then no longer holds. -/
theorem takesLeft_otherAgents (base : Nat) {s : State} (hc : s.ctl.rxCur < rxLen s.cfg) :
    takesLeft base (otherAgents s) ≤ takesLeft base s := by
  unfold otherAgents
  cases hi : s.interleave with
  | nil => exact Nat.le_refl _
  | cons ms rest =>
    cases ms with
    | nil =>
      simp only [moves, takesLeft, quietTakes, hi, List.flatten_cons, List.nil_append]
      exact Nat.le_refl _
    | cons m ms =>
      have := softwareOwned_card_le s.cfg base (moves (m :: ms) { s with interleave := rest }).mem
      simp only [takesLeft, quietTakes, moves_interleave, moves_cfg, moves_ctl, hi, if_pos hc, List.flatten_cons,
        List.length_append, List.length_cons, Nat.add_mul]
      omega

/-! ### The bound of the drain (R262) -/

/-- Fuel beyond the takes left changes nothing. -/
theorem drainLoop_of_takesLeft_lt {base n n' : Nat} {s : State} (hbase : ∀ r, s.ctl.region = some r → r.base = base)
    (hn : takesLeft base s < n) (hn' : takesLeft base s < n') (k : State → Out) :
    drainLoop n s k = drainLoop n' s k := by
  induction n generalizing n' s with
  | zero => exact absurd hn (Nat.not_lt_zero _)
  | succ n ih =>
    obtain ⟨n', rfl⟩ : ∃ l, n' = l + 1 := Nat.exists_eq_succ_of_ne_zero (by omega)
    have hrest {t : State} (hctl : t.ctl.region = s.ctl.region) (hcur : t.ctl.rxCur < rxLen t.cfg)
        (hlt : takesLeft base t < takesLeft base s) :
        boundary t (fun u => drainLoop n u k) = boundary t (fun u => drainLoop n' u k) := by
      have hle := takesLeft_otherAgents base hcur
      exact boundary_congr fun _ => ih (by rwa [otherAgents_ctl, hctl]) (by omega) (by omega)
    refine receiveStep_congr rfl fun r hr => ?_
    obtain rfl := hbase r hr
    rcases takeNext_cases r.base s with ⟨_, e⟩ | ⟨ho, e⟩
    · rw [e]
    · have ⟨hlt, hcur⟩ := takesLeft_takeNext ho
      rw [← takeNext_cfg r.base s] at hcur
      have hregion : (takeNext r.base s).2.ctl.region = s.ctl.region := by rw [e]
      cases (takeNext r.base s).1 with
      | packet p => exact hrest (t := onReceive p _) hregion hcur hlt
      | dropped => exact hrest hregion hcur hlt
      | empty => rfl
      | badState => rfl

/-- Settles O46: the bound is above the takes left of any state. -/
theorem drainNeverRunsOut : Obligations.DrainNeverRunsOut := by
  intro s k n _ hn
  obtain ⟨base, hbase⟩ : ∃ base, ∀ r, s.ctl.region = some r → r.base = base := by
    cases s.ctl.region with
    | none => exact ⟨0, nofun⟩
    | some r => exact ⟨r.base, fun _ h => by cases h; rfl⟩
  have hlt := takesLeft_lt_drainBound base s
  exact drainLoop_of_takesLeft_lt hbase (hlt.trans_le hn) hlt k

end Sys2Proof.Machine
end
